-- ==== Sys2Proof/Word.lean ====
section
/-! DEFINITION. The word types of the CORE (spec 00_scope.md R8, R11): the byte, the 16-bit address, the 32-bit pixel. -/

namespace Sys2Proof

/-- A byte: A, X, Y, SP and every memory cell (R8). -/
abbrev Byte := BitVec 8

/-- A 16-bit address: PC and every CPU or PPU address (R8). Its arithmetic wraps mod 65536 (R14). -/
abbrev Addr := BitVec 16

/-- One 32-bit ARGB pixel (10_state.md R57). -/
abbrev Pixel := BitVec 32

end Sys2Proof
end

