-- ==== Sys2Proof/Machine/Bits.lean ====
section
/-! DEFINITION. Bit fields, byte order and sign extension (spec 00_scope.md R11, R12, R14; 20_memory.md R80, R81). -/

namespace Sys2Proof

/-- `addr[7:0]`, the accessor lsb of R80. -/
def lowByte (a : Addr) : Byte := a.setWidth 8

/-- `addr[15:8]`, the accessor msb of R80: the page of an address. -/
def highByte (a : Addr) : Byte := (a >>> 8).setWidth 8

/-- `hi ++ lo`: a 16-bit value from its low and its high byte, in that order (R81). -/
def word (lo hi : Byte) : Addr := hi ++ lo

/-- `zext_16` (R12). -/
def zext16 (b : Byte) : Addr := b.setWidth 16

/-- `sext_16` (R12): a byte from 0x80 up gains 0xFF00. -/
def sext16 (b : Byte) : Addr := b.signExtend 16

/-- `v[i]` of a byte, as a Bool (R11). -/
def bit (v : Byte) (i : Nat) : Bool := v.getLsbD i

/-- One flag as the number 0 or 1. -/
def flag (b : Bool) : Nat := b.toNat

/-- Two addresses lie in different pages (40_addressing_modes.md R186). -/
def differentPage (a b : Addr) : Bool := decide (highByte a ≠ highByte b)

end Sys2Proof
end

