-- ==== Sys2Proof/Syntax.lean ====
section
/-! DEFINITION. The syntax of the instruction set: the 13 addressing modes, the operand a mode carries, the 56 mnemonics,
and Instr with one constructor for each of the 151 rows of spec/opcode_table.json (30_encoding.md R141, R144, R150). -/

namespace Sys2Proof

/-- The 13 addressing modes, under the table's `format` names (30_encoding.md R141). -/
inductive Mode where
  | imp
  | acc
  | imm
  | zp
  | zpx
  | zpy
  | abs
  | absx
  | absy
  | ind
  | indx
  | indy
  | rel
  deriving DecidableEq, Repr

/-- The operand of an instruction: one variant per addressing mode, carrying only what that mode fetches
(40_addressing_modes.md R170). -/
inductive Operand where
  | imp   -- Implicit, R173
  | acc   -- Accumulator, R174
  | imm (v : Byte)   -- Immediate, R175
  | zp (z : Byte)   -- Zero Page, R176
  | zpx (z : Byte)   -- Zero Page,X, R177
  | zpy (z : Byte)   -- Zero Page,Y, R178
  | abs (a : Addr)   -- Absolute, R179
  | absx (a : Addr)   -- Absolute,X, R180
  | absy (a : Addr)   -- Absolute,Y, R181
  | ind (a : Addr)   -- Indirect, R182
  | indx (z : Byte)   -- Indexed Indirect, R183
  | indy (z : Byte)   -- Indirect Indexed, R184
  | rel (r : Byte)   -- Relative, R185
  deriving DecidableEq, Repr

/-- The addressing mode of an operand. -/
def Operand.mode : Operand → Mode
  | .imp => .imp
  | .acc => .acc
  | .imm _ => .imm
  | .zp _ => .zp
  | .zpx _ => .zpx
  | .zpy _ => .zpy
  | .abs _ => .abs
  | .absx _ => .absx
  | .absy _ => .absy
  | .ind _ => .ind
  | .indx _ => .indx
  | .indy _ => .indy
  | .rel _ => .rel

/-- The 56 mnemonics (30_encoding.md R145). -/
inductive Mnemonic where
  | ADC | AND | ASL | BCC | BCS | BEQ | BIT | BMI | BNE | BPL | BRK | BVC | BVS | CLC
  | CLD | CLI | CLV | CMP | CPX | CPY | DEC | DEX | DEY | EOR | INC | INX | INY | JMP
  | JSR | LDA | LDX | LDY | LSR | NOP | ORA | PHA | PHP | PLA | PLP | ROL | ROR | RTI
  | RTS | SBC | SEC | SED | SEI | STA | STX | STY | TAX | TAY | TSX | TXA | TXS | TYA
  deriving DecidableEq, Repr

/-- The instructions: one constructor for each row of spec/opcode_table.json, in opcode order. An operand is a byte, or the
16-bit word of an absolute or indirect form. -/
inductive Instr where
  | brk
  | oraIndx (z : Byte)
  | oraZp (z : Byte)
  | aslZp (z : Byte)
  | php
  | oraImm (v : Byte)
  | aslAcc
  | oraAbs (a : Addr)
  | aslAbs (a : Addr)
  | bpl (r : Byte)
  | oraIndy (z : Byte)
  | oraZpx (z : Byte)
  | aslZpx (z : Byte)
  | clc
  | oraAbsy (a : Addr)
  | oraAbsx (a : Addr)
  | aslAbsx (a : Addr)
  | jsr (a : Addr)
  | andIndx (z : Byte)
  | bitZp (z : Byte)
  | andZp (z : Byte)
  | rolZp (z : Byte)
  | plp
  | andImm (v : Byte)
  | rolAcc
  | bitAbs (a : Addr)
  | andAbs (a : Addr)
  | rolAbs (a : Addr)
  | bmi (r : Byte)
  | andIndy (z : Byte)
  | andZpx (z : Byte)
  | rolZpx (z : Byte)
  | sec
  | andAbsy (a : Addr)
  | andAbsx (a : Addr)
  | rolAbsx (a : Addr)
  | rti
  | eorIndx (z : Byte)
  | eorZp (z : Byte)
  | lsrZp (z : Byte)
  | pha
  | eorImm (v : Byte)
  | lsrAcc
  | jmpAbs (a : Addr)
  | eorAbs (a : Addr)
  | lsrAbs (a : Addr)
  | bvc (r : Byte)
  | eorIndy (z : Byte)
  | eorZpx (z : Byte)
  | lsrZpx (z : Byte)
  | cli
  | eorAbsy (a : Addr)
  | eorAbsx (a : Addr)
  | lsrAbsx (a : Addr)
  | rts
  | adcIndx (z : Byte)
  | adcZp (z : Byte)
  | rorZp (z : Byte)
  | pla
  | adcImm (v : Byte)
  | rorAcc
  | jmpInd (a : Addr)
  | adcAbs (a : Addr)
  | rorAbs (a : Addr)
  | bvs (r : Byte)
  | adcIndy (z : Byte)
  | adcZpx (z : Byte)
  | rorZpx (z : Byte)
  | sei
  | adcAbsy (a : Addr)
  | adcAbsx (a : Addr)
  | rorAbsx (a : Addr)
  | staIndx (z : Byte)
  | styZp (z : Byte)
  | staZp (z : Byte)
  | stxZp (z : Byte)
  | dey
  | txa
  | styAbs (a : Addr)
  | staAbs (a : Addr)
  | stxAbs (a : Addr)
  | bcc (r : Byte)
  | staIndy (z : Byte)
  | styZpx (z : Byte)
  | staZpx (z : Byte)
  | stxZpy (z : Byte)
  | tya
  | staAbsy (a : Addr)
  | txs
  | staAbsx (a : Addr)
  | ldyImm (v : Byte)
  | ldaIndx (z : Byte)
  | ldxImm (v : Byte)
  | ldyZp (z : Byte)
  | ldaZp (z : Byte)
  | ldxZp (z : Byte)
  | tay
  | ldaImm (v : Byte)
  | tax
  | ldyAbs (a : Addr)
  | ldaAbs (a : Addr)
  | ldxAbs (a : Addr)
  | bcs (r : Byte)
  | ldaIndy (z : Byte)
  | ldyZpx (z : Byte)
  | ldaZpx (z : Byte)
  | ldxZpy (z : Byte)
  | clv
  | ldaAbsy (a : Addr)
  | tsx
  | ldyAbsx (a : Addr)
  | ldaAbsx (a : Addr)
  | ldxAbsy (a : Addr)
  | cpyImm (v : Byte)
  | cmpIndx (z : Byte)
  | cpyZp (z : Byte)
  | cmpZp (z : Byte)
  | decZp (z : Byte)
  | iny
  | cmpImm (v : Byte)
  | dex
  | cpyAbs (a : Addr)
  | cmpAbs (a : Addr)
  | decAbs (a : Addr)
  | bne (r : Byte)
  | cmpIndy (z : Byte)
  | cmpZpx (z : Byte)
  | decZpx (z : Byte)
  | cld
  | cmpAbsy (a : Addr)
  | cmpAbsx (a : Addr)
  | decAbsx (a : Addr)
  | cpxImm (v : Byte)
  | sbcIndx (z : Byte)
  | cpxZp (z : Byte)
  | sbcZp (z : Byte)
  | incZp (z : Byte)
  | inx
  | sbcImm (v : Byte)
  | nop
  | cpxAbs (a : Addr)
  | sbcAbs (a : Addr)
  | incAbs (a : Addr)
  | beq (r : Byte)
  | sbcIndy (z : Byte)
  | sbcZpx (z : Byte)
  | incZpx (z : Byte)
  | sed
  | sbcAbsy (a : Addr)
  | sbcAbsx (a : Addr)
  | incAbsx (a : Addr)
  deriving DecidableEq, Repr

/-- The mnemonic of an instruction. -/
def Instr.mnemonic : Instr → Mnemonic
  | .brk => .BRK
  | .oraIndx _ => .ORA
  | .oraZp _ => .ORA
  | .aslZp _ => .ASL
  | .php => .PHP
  | .oraImm _ => .ORA
  | .aslAcc => .ASL
  | .oraAbs _ => .ORA
  | .aslAbs _ => .ASL
  | .bpl _ => .BPL
  | .oraIndy _ => .ORA
  | .oraZpx _ => .ORA
  | .aslZpx _ => .ASL
  | .clc => .CLC
  | .oraAbsy _ => .ORA
  | .oraAbsx _ => .ORA
  | .aslAbsx _ => .ASL
  | .jsr _ => .JSR
  | .andIndx _ => .AND
  | .bitZp _ => .BIT
  | .andZp _ => .AND
  | .rolZp _ => .ROL
  | .plp => .PLP
  | .andImm _ => .AND
  | .rolAcc => .ROL
  | .bitAbs _ => .BIT
  | .andAbs _ => .AND
  | .rolAbs _ => .ROL
  | .bmi _ => .BMI
  | .andIndy _ => .AND
  | .andZpx _ => .AND
  | .rolZpx _ => .ROL
  | .sec => .SEC
  | .andAbsy _ => .AND
  | .andAbsx _ => .AND
  | .rolAbsx _ => .ROL
  | .rti => .RTI
  | .eorIndx _ => .EOR
  | .eorZp _ => .EOR
  | .lsrZp _ => .LSR
  | .pha => .PHA
  | .eorImm _ => .EOR
  | .lsrAcc => .LSR
  | .jmpAbs _ => .JMP
  | .eorAbs _ => .EOR
  | .lsrAbs _ => .LSR
  | .bvc _ => .BVC
  | .eorIndy _ => .EOR
  | .eorZpx _ => .EOR
  | .lsrZpx _ => .LSR
  | .cli => .CLI
  | .eorAbsy _ => .EOR
  | .eorAbsx _ => .EOR
  | .lsrAbsx _ => .LSR
  | .rts => .RTS
  | .adcIndx _ => .ADC
  | .adcZp _ => .ADC
  | .rorZp _ => .ROR
  | .pla => .PLA
  | .adcImm _ => .ADC
  | .rorAcc => .ROR
  | .jmpInd _ => .JMP
  | .adcAbs _ => .ADC
  | .rorAbs _ => .ROR
  | .bvs _ => .BVS
  | .adcIndy _ => .ADC
  | .adcZpx _ => .ADC
  | .rorZpx _ => .ROR
  | .sei => .SEI
  | .adcAbsy _ => .ADC
  | .adcAbsx _ => .ADC
  | .rorAbsx _ => .ROR
  | .staIndx _ => .STA
  | .styZp _ => .STY
  | .staZp _ => .STA
  | .stxZp _ => .STX
  | .dey => .DEY
  | .txa => .TXA
  | .styAbs _ => .STY
  | .staAbs _ => .STA
  | .stxAbs _ => .STX
  | .bcc _ => .BCC
  | .staIndy _ => .STA
  | .styZpx _ => .STY
  | .staZpx _ => .STA
  | .stxZpy _ => .STX
  | .tya => .TYA
  | .staAbsy _ => .STA
  | .txs => .TXS
  | .staAbsx _ => .STA
  | .ldyImm _ => .LDY
  | .ldaIndx _ => .LDA
  | .ldxImm _ => .LDX
  | .ldyZp _ => .LDY
  | .ldaZp _ => .LDA
  | .ldxZp _ => .LDX
  | .tay => .TAY
  | .ldaImm _ => .LDA
  | .tax => .TAX
  | .ldyAbs _ => .LDY
  | .ldaAbs _ => .LDA
  | .ldxAbs _ => .LDX
  | .bcs _ => .BCS
  | .ldaIndy _ => .LDA
  | .ldyZpx _ => .LDY
  | .ldaZpx _ => .LDA
  | .ldxZpy _ => .LDX
  | .clv => .CLV
  | .ldaAbsy _ => .LDA
  | .tsx => .TSX
  | .ldyAbsx _ => .LDY
  | .ldaAbsx _ => .LDA
  | .ldxAbsy _ => .LDX
  | .cpyImm _ => .CPY
  | .cmpIndx _ => .CMP
  | .cpyZp _ => .CPY
  | .cmpZp _ => .CMP
  | .decZp _ => .DEC
  | .iny => .INY
  | .cmpImm _ => .CMP
  | .dex => .DEX
  | .cpyAbs _ => .CPY
  | .cmpAbs _ => .CMP
  | .decAbs _ => .DEC
  | .bne _ => .BNE
  | .cmpIndy _ => .CMP
  | .cmpZpx _ => .CMP
  | .decZpx _ => .DEC
  | .cld => .CLD
  | .cmpAbsy _ => .CMP
  | .cmpAbsx _ => .CMP
  | .decAbsx _ => .DEC
  | .cpxImm _ => .CPX
  | .sbcIndx _ => .SBC
  | .cpxZp _ => .CPX
  | .sbcZp _ => .SBC
  | .incZp _ => .INC
  | .inx => .INX
  | .sbcImm _ => .SBC
  | .nop => .NOP
  | .cpxAbs _ => .CPX
  | .sbcAbs _ => .SBC
  | .incAbs _ => .INC
  | .beq _ => .BEQ
  | .sbcIndy _ => .SBC
  | .sbcZpx _ => .SBC
  | .incZpx _ => .INC
  | .sed => .SED
  | .sbcAbsy _ => .SBC
  | .sbcAbsx _ => .SBC
  | .incAbsx _ => .INC

/-- The operand of an instruction, tagged with its addressing mode. -/
def Instr.operand : Instr → Operand
  | .brk => .imp
  | .oraIndx z => .indx z
  | .oraZp z => .zp z
  | .aslZp z => .zp z
  | .php => .imp
  | .oraImm v => .imm v
  | .aslAcc => .acc
  | .oraAbs a => .abs a
  | .aslAbs a => .abs a
  | .bpl r => .rel r
  | .oraIndy z => .indy z
  | .oraZpx z => .zpx z
  | .aslZpx z => .zpx z
  | .clc => .imp
  | .oraAbsy a => .absy a
  | .oraAbsx a => .absx a
  | .aslAbsx a => .absx a
  | .jsr a => .abs a
  | .andIndx z => .indx z
  | .bitZp z => .zp z
  | .andZp z => .zp z
  | .rolZp z => .zp z
  | .plp => .imp
  | .andImm v => .imm v
  | .rolAcc => .acc
  | .bitAbs a => .abs a
  | .andAbs a => .abs a
  | .rolAbs a => .abs a
  | .bmi r => .rel r
  | .andIndy z => .indy z
  | .andZpx z => .zpx z
  | .rolZpx z => .zpx z
  | .sec => .imp
  | .andAbsy a => .absy a
  | .andAbsx a => .absx a
  | .rolAbsx a => .absx a
  | .rti => .imp
  | .eorIndx z => .indx z
  | .eorZp z => .zp z
  | .lsrZp z => .zp z
  | .pha => .imp
  | .eorImm v => .imm v
  | .lsrAcc => .acc
  | .jmpAbs a => .abs a
  | .eorAbs a => .abs a
  | .lsrAbs a => .abs a
  | .bvc r => .rel r
  | .eorIndy z => .indy z
  | .eorZpx z => .zpx z
  | .lsrZpx z => .zpx z
  | .cli => .imp
  | .eorAbsy a => .absy a
  | .eorAbsx a => .absx a
  | .lsrAbsx a => .absx a
  | .rts => .imp
  | .adcIndx z => .indx z
  | .adcZp z => .zp z
  | .rorZp z => .zp z
  | .pla => .imp
  | .adcImm v => .imm v
  | .rorAcc => .acc
  | .jmpInd a => .ind a
  | .adcAbs a => .abs a
  | .rorAbs a => .abs a
  | .bvs r => .rel r
  | .adcIndy z => .indy z
  | .adcZpx z => .zpx z
  | .rorZpx z => .zpx z
  | .sei => .imp
  | .adcAbsy a => .absy a
  | .adcAbsx a => .absx a
  | .rorAbsx a => .absx a
  | .staIndx z => .indx z
  | .styZp z => .zp z
  | .staZp z => .zp z
  | .stxZp z => .zp z
  | .dey => .imp
  | .txa => .imp
  | .styAbs a => .abs a
  | .staAbs a => .abs a
  | .stxAbs a => .abs a
  | .bcc r => .rel r
  | .staIndy z => .indy z
  | .styZpx z => .zpx z
  | .staZpx z => .zpx z
  | .stxZpy z => .zpy z
  | .tya => .imp
  | .staAbsy a => .absy a
  | .txs => .imp
  | .staAbsx a => .absx a
  | .ldyImm v => .imm v
  | .ldaIndx z => .indx z
  | .ldxImm v => .imm v
  | .ldyZp z => .zp z
  | .ldaZp z => .zp z
  | .ldxZp z => .zp z
  | .tay => .imp
  | .ldaImm v => .imm v
  | .tax => .imp
  | .ldyAbs a => .abs a
  | .ldaAbs a => .abs a
  | .ldxAbs a => .abs a
  | .bcs r => .rel r
  | .ldaIndy z => .indy z
  | .ldyZpx z => .zpx z
  | .ldaZpx z => .zpx z
  | .ldxZpy z => .zpy z
  | .clv => .imp
  | .ldaAbsy a => .absy a
  | .tsx => .imp
  | .ldyAbsx a => .absx a
  | .ldaAbsx a => .absx a
  | .ldxAbsy a => .absy a
  | .cpyImm v => .imm v
  | .cmpIndx z => .indx z
  | .cpyZp z => .zp z
  | .cmpZp z => .zp z
  | .decZp z => .zp z
  | .iny => .imp
  | .cmpImm v => .imm v
  | .dex => .imp
  | .cpyAbs a => .abs a
  | .cmpAbs a => .abs a
  | .decAbs a => .abs a
  | .bne r => .rel r
  | .cmpIndy z => .indy z
  | .cmpZpx z => .zpx z
  | .decZpx z => .zpx z
  | .cld => .imp
  | .cmpAbsy a => .absy a
  | .cmpAbsx a => .absx a
  | .decAbsx a => .absx a
  | .cpxImm v => .imm v
  | .sbcIndx z => .indx z
  | .cpxZp z => .zp z
  | .sbcZp z => .zp z
  | .incZp z => .zp z
  | .inx => .imp
  | .sbcImm v => .imm v
  | .nop => .imp
  | .cpxAbs a => .abs a
  | .sbcAbs a => .abs a
  | .incAbs a => .abs a
  | .beq r => .rel r
  | .sbcIndy z => .indy z
  | .sbcZpx z => .zpx z
  | .incZpx z => .zpx z
  | .sed => .imp
  | .sbcAbsy a => .absy a
  | .sbcAbsx a => .absx a
  | .incAbsx a => .absx a

end Sys2Proof
end

