-- ==== Sys2Proof/WellFormed.lean ====
section
/-! DEFINITION. Well-formedness. A term of the assembler level is a mnemonic with an operand; it is an instruction only if the
opcode map has that pair (30_encoding.md R143, R145, R150). The fields of Instr carry their widths in their types, so the pair
is the one thing left to check. -/

namespace Sys2Proof

/-- A mnemonic with an operand, before it is known to be an instruction (30_encoding.md R148). -/
structure RawInstr where
  mnemonic : Mnemonic
  operand : Operand
  deriving DecidableEq, Repr

/-- The modes of each mnemonic (30_encoding.md R145). -/
def Mnemonic.modes : Mnemonic → List Mode
  | .ADC => [.indx, .zp, .imm, .abs, .indy, .zpx, .absy, .absx]
  | .AND => [.indx, .zp, .imm, .abs, .indy, .zpx, .absy, .absx]
  | .ASL => [.zp, .acc, .abs, .zpx, .absx]
  | .BCC => [.rel]
  | .BCS => [.rel]
  | .BEQ => [.rel]
  | .BIT => [.zp, .abs]
  | .BMI => [.rel]
  | .BNE => [.rel]
  | .BPL => [.rel]
  | .BRK => [.imp]
  | .BVC => [.rel]
  | .BVS => [.rel]
  | .CLC => [.imp]
  | .CLD => [.imp]
  | .CLI => [.imp]
  | .CLV => [.imp]
  | .CMP => [.indx, .zp, .imm, .abs, .indy, .zpx, .absy, .absx]
  | .CPX => [.imm, .zp, .abs]
  | .CPY => [.imm, .zp, .abs]
  | .DEC => [.zp, .abs, .zpx, .absx]
  | .DEX => [.imp]
  | .DEY => [.imp]
  | .EOR => [.indx, .zp, .imm, .abs, .indy, .zpx, .absy, .absx]
  | .INC => [.zp, .abs, .zpx, .absx]
  | .INX => [.imp]
  | .INY => [.imp]
  | .JMP => [.abs, .ind]
  | .JSR => [.abs]
  | .LDA => [.indx, .zp, .imm, .abs, .indy, .zpx, .absy, .absx]
  | .LDX => [.imm, .zp, .abs, .zpy, .absy]
  | .LDY => [.imm, .zp, .abs, .zpx, .absx]
  | .LSR => [.zp, .acc, .abs, .zpx, .absx]
  | .NOP => [.imp]
  | .ORA => [.indx, .zp, .imm, .abs, .indy, .zpx, .absy, .absx]
  | .PHA => [.imp]
  | .PHP => [.imp]
  | .PLA => [.imp]
  | .PLP => [.imp]
  | .ROL => [.zp, .acc, .abs, .zpx, .absx]
  | .ROR => [.zp, .acc, .abs, .zpx, .absx]
  | .RTI => [.imp]
  | .RTS => [.imp]
  | .SBC => [.indx, .zp, .imm, .abs, .indy, .zpx, .absy, .absx]
  | .SEC => [.imp]
  | .SED => [.imp]
  | .SEI => [.imp]
  | .STA => [.indx, .zp, .abs, .indy, .zpx, .absy, .absx]
  | .STX => [.zp, .abs, .zpy]
  | .STY => [.zp, .abs, .zpx]
  | .TAX => [.imp]
  | .TAY => [.imp]
  | .TSX => [.imp]
  | .TXA => [.imp]
  | .TXS => [.imp]
  | .TYA => [.imp]

/-- The check: the opcode map has the pair. -/
def RawInstr.wf (t : RawInstr) : Bool := decide (t.operand.mode ∈ t.mnemonic.modes)

/-- The assembler-level term of an instruction. -/
def Instr.raw (i : Instr) : RawInstr := ⟨i.mnemonic, i.operand⟩

/-- An instruction is well formed when its term is. -/
def Instr.wf (i : Instr) : Bool := i.raw.wf

end Sys2Proof
end

