-- ==== Sys2Proof/Decode.lean ====
section
/-! DEFINITION. The decoder, total on any bytes, and the encoder (30_encoding.md R140 to R150). The decoder is the opcode map
R144 as a table of rows; the encoder is written from the listing by mnemonic, R145. -/

namespace Sys2Proof

/-- How many operand bytes a mode fetches, with the opcode byte: the instruction's length (30_encoding.md R141). -/
def Mode.length : Mode → Nat
  | .imp => 1
  | .acc => 1
  | .imm => 2
  | .zp => 2
  | .zpx => 2
  | .zpy => 2
  | .abs => 3
  | .absx => 3
  | .absy => 3
  | .ind => 3
  | .indx => 2
  | .indy => 2
  | .rel => 2

/-- What an opcode byte selects: an instruction with no operand byte, with one, or with a little-endian operand word
(30_encoding.md R141, R142). -/
inductive OpForm where
  | zero (i : Instr)
  | one (f : Byte → Instr)
  | two (f : Addr → Instr)

/-- When an instruction costs more than its base cost (70_reset_and_hazards.md R520): never; one more when a page is crossed
(the mark *); one more when the branch is taken and one more when its target lies in another page (the mark †). -/
inductive ExtraCost where
  | none
  | pageCross
  | branch
  deriving DecidableEq, Repr

/-- One row of the opcode table (spec/opcode_table.json): the opcode byte, the mnemonic and mode it selects, the instruction it
builds, and its reference cost (R520). -/
structure OpcodeRow where
  opcode : Byte
  mnemonic : Mnemonic
  mode : Mode
  form : OpForm
  cycles : Nat
  extra : ExtraCost

/-- The row 0x of the opcode map R144. -/
def opcodeRow0 : List OpcodeRow := [
  ⟨0x00#8, .BRK, .imp, .zero .brk, 7, .none⟩,
  ⟨0x01#8, .ORA, .indx, .one .oraIndx, 6, .none⟩,
  ⟨0x05#8, .ORA, .zp, .one .oraZp, 3, .none⟩,
  ⟨0x06#8, .ASL, .zp, .one .aslZp, 5, .none⟩,
  ⟨0x08#8, .PHP, .imp, .zero .php, 3, .none⟩,
  ⟨0x09#8, .ORA, .imm, .one .oraImm, 2, .none⟩,
  ⟨0x0A#8, .ASL, .acc, .zero .aslAcc, 2, .none⟩,
  ⟨0x0D#8, .ORA, .abs, .two .oraAbs, 4, .none⟩,
  ⟨0x0E#8, .ASL, .abs, .two .aslAbs, 6, .none⟩]

/-- The row 1x of the opcode map R144. -/
def opcodeRow1 : List OpcodeRow := [
  ⟨0x10#8, .BPL, .rel, .one .bpl, 2, .branch⟩,
  ⟨0x11#8, .ORA, .indy, .one .oraIndy, 5, .pageCross⟩,
  ⟨0x15#8, .ORA, .zpx, .one .oraZpx, 4, .none⟩,
  ⟨0x16#8, .ASL, .zpx, .one .aslZpx, 6, .none⟩,
  ⟨0x18#8, .CLC, .imp, .zero .clc, 2, .none⟩,
  ⟨0x19#8, .ORA, .absy, .two .oraAbsy, 4, .pageCross⟩,
  ⟨0x1D#8, .ORA, .absx, .two .oraAbsx, 4, .pageCross⟩,
  ⟨0x1E#8, .ASL, .absx, .two .aslAbsx, 7, .none⟩]

/-- The row 2x of the opcode map R144. -/
def opcodeRow2 : List OpcodeRow := [
  ⟨0x20#8, .JSR, .abs, .two .jsr, 6, .none⟩,
  ⟨0x21#8, .AND, .indx, .one .andIndx, 6, .none⟩,
  ⟨0x24#8, .BIT, .zp, .one .bitZp, 3, .none⟩,
  ⟨0x25#8, .AND, .zp, .one .andZp, 3, .none⟩,
  ⟨0x26#8, .ROL, .zp, .one .rolZp, 5, .none⟩,
  ⟨0x28#8, .PLP, .imp, .zero .plp, 4, .none⟩,
  ⟨0x29#8, .AND, .imm, .one .andImm, 2, .none⟩,
  ⟨0x2A#8, .ROL, .acc, .zero .rolAcc, 2, .none⟩,
  ⟨0x2C#8, .BIT, .abs, .two .bitAbs, 4, .none⟩,
  ⟨0x2D#8, .AND, .abs, .two .andAbs, 4, .none⟩,
  ⟨0x2E#8, .ROL, .abs, .two .rolAbs, 6, .none⟩]

/-- The row 3x of the opcode map R144. -/
def opcodeRow3 : List OpcodeRow := [
  ⟨0x30#8, .BMI, .rel, .one .bmi, 2, .branch⟩,
  ⟨0x31#8, .AND, .indy, .one .andIndy, 5, .pageCross⟩,
  ⟨0x35#8, .AND, .zpx, .one .andZpx, 4, .none⟩,
  ⟨0x36#8, .ROL, .zpx, .one .rolZpx, 6, .none⟩,
  ⟨0x38#8, .SEC, .imp, .zero .sec, 2, .none⟩,
  ⟨0x39#8, .AND, .absy, .two .andAbsy, 4, .pageCross⟩,
  ⟨0x3D#8, .AND, .absx, .two .andAbsx, 4, .pageCross⟩,
  ⟨0x3E#8, .ROL, .absx, .two .rolAbsx, 7, .none⟩]

/-- The row 4x of the opcode map R144. -/
def opcodeRow4 : List OpcodeRow := [
  ⟨0x40#8, .RTI, .imp, .zero .rti, 6, .none⟩,
  ⟨0x41#8, .EOR, .indx, .one .eorIndx, 6, .none⟩,
  ⟨0x45#8, .EOR, .zp, .one .eorZp, 3, .none⟩,
  ⟨0x46#8, .LSR, .zp, .one .lsrZp, 5, .none⟩,
  ⟨0x48#8, .PHA, .imp, .zero .pha, 3, .none⟩,
  ⟨0x49#8, .EOR, .imm, .one .eorImm, 2, .none⟩,
  ⟨0x4A#8, .LSR, .acc, .zero .lsrAcc, 2, .none⟩,
  ⟨0x4C#8, .JMP, .abs, .two .jmpAbs, 3, .none⟩,
  ⟨0x4D#8, .EOR, .abs, .two .eorAbs, 4, .none⟩,
  ⟨0x4E#8, .LSR, .abs, .two .lsrAbs, 6, .none⟩]

/-- The row 5x of the opcode map R144. -/
def opcodeRow5 : List OpcodeRow := [
  ⟨0x50#8, .BVC, .rel, .one .bvc, 2, .branch⟩,
  ⟨0x51#8, .EOR, .indy, .one .eorIndy, 5, .pageCross⟩,
  ⟨0x55#8, .EOR, .zpx, .one .eorZpx, 4, .none⟩,
  ⟨0x56#8, .LSR, .zpx, .one .lsrZpx, 6, .none⟩,
  ⟨0x58#8, .CLI, .imp, .zero .cli, 2, .none⟩,
  ⟨0x59#8, .EOR, .absy, .two .eorAbsy, 4, .pageCross⟩,
  ⟨0x5D#8, .EOR, .absx, .two .eorAbsx, 4, .pageCross⟩,
  ⟨0x5E#8, .LSR, .absx, .two .lsrAbsx, 7, .none⟩]

/-- The row 6x of the opcode map R144. -/
def opcodeRow6 : List OpcodeRow := [
  ⟨0x60#8, .RTS, .imp, .zero .rts, 6, .none⟩,
  ⟨0x61#8, .ADC, .indx, .one .adcIndx, 6, .none⟩,
  ⟨0x65#8, .ADC, .zp, .one .adcZp, 3, .none⟩,
  ⟨0x66#8, .ROR, .zp, .one .rorZp, 5, .none⟩,
  ⟨0x68#8, .PLA, .imp, .zero .pla, 4, .none⟩,
  ⟨0x69#8, .ADC, .imm, .one .adcImm, 2, .none⟩,
  ⟨0x6A#8, .ROR, .acc, .zero .rorAcc, 2, .none⟩,
  ⟨0x6C#8, .JMP, .ind, .two .jmpInd, 5, .none⟩,
  ⟨0x6D#8, .ADC, .abs, .two .adcAbs, 4, .none⟩,
  ⟨0x6E#8, .ROR, .abs, .two .rorAbs, 6, .none⟩]

/-- The row 7x of the opcode map R144. -/
def opcodeRow7 : List OpcodeRow := [
  ⟨0x70#8, .BVS, .rel, .one .bvs, 2, .branch⟩,
  ⟨0x71#8, .ADC, .indy, .one .adcIndy, 5, .pageCross⟩,
  ⟨0x75#8, .ADC, .zpx, .one .adcZpx, 4, .none⟩,
  ⟨0x76#8, .ROR, .zpx, .one .rorZpx, 6, .none⟩,
  ⟨0x78#8, .SEI, .imp, .zero .sei, 2, .none⟩,
  ⟨0x79#8, .ADC, .absy, .two .adcAbsy, 4, .pageCross⟩,
  ⟨0x7D#8, .ADC, .absx, .two .adcAbsx, 4, .pageCross⟩,
  ⟨0x7E#8, .ROR, .absx, .two .rorAbsx, 7, .none⟩]

/-- The row 8x of the opcode map R144. -/
def opcodeRow8 : List OpcodeRow := [
  ⟨0x81#8, .STA, .indx, .one .staIndx, 6, .none⟩,
  ⟨0x84#8, .STY, .zp, .one .styZp, 3, .none⟩,
  ⟨0x85#8, .STA, .zp, .one .staZp, 3, .none⟩,
  ⟨0x86#8, .STX, .zp, .one .stxZp, 3, .none⟩,
  ⟨0x88#8, .DEY, .imp, .zero .dey, 2, .none⟩,
  ⟨0x8A#8, .TXA, .imp, .zero .txa, 2, .none⟩,
  ⟨0x8C#8, .STY, .abs, .two .styAbs, 4, .none⟩,
  ⟨0x8D#8, .STA, .abs, .two .staAbs, 4, .none⟩,
  ⟨0x8E#8, .STX, .abs, .two .stxAbs, 4, .none⟩]

/-- The row 9x of the opcode map R144. -/
def opcodeRow9 : List OpcodeRow := [
  ⟨0x90#8, .BCC, .rel, .one .bcc, 2, .branch⟩,
  ⟨0x91#8, .STA, .indy, .one .staIndy, 6, .none⟩,
  ⟨0x94#8, .STY, .zpx, .one .styZpx, 4, .none⟩,
  ⟨0x95#8, .STA, .zpx, .one .staZpx, 4, .none⟩,
  ⟨0x96#8, .STX, .zpy, .one .stxZpy, 4, .none⟩,
  ⟨0x98#8, .TYA, .imp, .zero .tya, 2, .none⟩,
  ⟨0x99#8, .STA, .absy, .two .staAbsy, 5, .none⟩,
  ⟨0x9A#8, .TXS, .imp, .zero .txs, 2, .none⟩,
  ⟨0x9D#8, .STA, .absx, .two .staAbsx, 5, .none⟩]

/-- The row Ax of the opcode map R144. -/
def opcodeRowA : List OpcodeRow := [
  ⟨0xA0#8, .LDY, .imm, .one .ldyImm, 2, .none⟩,
  ⟨0xA1#8, .LDA, .indx, .one .ldaIndx, 6, .none⟩,
  ⟨0xA2#8, .LDX, .imm, .one .ldxImm, 2, .none⟩,
  ⟨0xA4#8, .LDY, .zp, .one .ldyZp, 3, .none⟩,
  ⟨0xA5#8, .LDA, .zp, .one .ldaZp, 3, .none⟩,
  ⟨0xA6#8, .LDX, .zp, .one .ldxZp, 3, .none⟩,
  ⟨0xA8#8, .TAY, .imp, .zero .tay, 2, .none⟩,
  ⟨0xA9#8, .LDA, .imm, .one .ldaImm, 2, .none⟩,
  ⟨0xAA#8, .TAX, .imp, .zero .tax, 2, .none⟩,
  ⟨0xAC#8, .LDY, .abs, .two .ldyAbs, 4, .none⟩,
  ⟨0xAD#8, .LDA, .abs, .two .ldaAbs, 4, .none⟩,
  ⟨0xAE#8, .LDX, .abs, .two .ldxAbs, 4, .none⟩]

/-- The row Bx of the opcode map R144. -/
def opcodeRowB : List OpcodeRow := [
  ⟨0xB0#8, .BCS, .rel, .one .bcs, 2, .branch⟩,
  ⟨0xB1#8, .LDA, .indy, .one .ldaIndy, 5, .pageCross⟩,
  ⟨0xB4#8, .LDY, .zpx, .one .ldyZpx, 4, .none⟩,
  ⟨0xB5#8, .LDA, .zpx, .one .ldaZpx, 4, .none⟩,
  ⟨0xB6#8, .LDX, .zpy, .one .ldxZpy, 4, .none⟩,
  ⟨0xB8#8, .CLV, .imp, .zero .clv, 2, .none⟩,
  ⟨0xB9#8, .LDA, .absy, .two .ldaAbsy, 4, .pageCross⟩,
  ⟨0xBA#8, .TSX, .imp, .zero .tsx, 2, .none⟩,
  ⟨0xBC#8, .LDY, .absx, .two .ldyAbsx, 4, .pageCross⟩,
  ⟨0xBD#8, .LDA, .absx, .two .ldaAbsx, 4, .pageCross⟩,
  ⟨0xBE#8, .LDX, .absy, .two .ldxAbsy, 4, .pageCross⟩]

/-- The row Cx of the opcode map R144. -/
def opcodeRowC : List OpcodeRow := [
  ⟨0xC0#8, .CPY, .imm, .one .cpyImm, 2, .none⟩,
  ⟨0xC1#8, .CMP, .indx, .one .cmpIndx, 6, .none⟩,
  ⟨0xC4#8, .CPY, .zp, .one .cpyZp, 3, .none⟩,
  ⟨0xC5#8, .CMP, .zp, .one .cmpZp, 3, .none⟩,
  ⟨0xC6#8, .DEC, .zp, .one .decZp, 5, .none⟩,
  ⟨0xC8#8, .INY, .imp, .zero .iny, 2, .none⟩,
  ⟨0xC9#8, .CMP, .imm, .one .cmpImm, 2, .none⟩,
  ⟨0xCA#8, .DEX, .imp, .zero .dex, 2, .none⟩,
  ⟨0xCC#8, .CPY, .abs, .two .cpyAbs, 4, .none⟩,
  ⟨0xCD#8, .CMP, .abs, .two .cmpAbs, 4, .none⟩,
  ⟨0xCE#8, .DEC, .abs, .two .decAbs, 6, .none⟩]

/-- The row Dx of the opcode map R144. -/
def opcodeRowD : List OpcodeRow := [
  ⟨0xD0#8, .BNE, .rel, .one .bne, 2, .branch⟩,
  ⟨0xD1#8, .CMP, .indy, .one .cmpIndy, 5, .pageCross⟩,
  ⟨0xD5#8, .CMP, .zpx, .one .cmpZpx, 4, .none⟩,
  ⟨0xD6#8, .DEC, .zpx, .one .decZpx, 6, .none⟩,
  ⟨0xD8#8, .CLD, .imp, .zero .cld, 2, .none⟩,
  ⟨0xD9#8, .CMP, .absy, .two .cmpAbsy, 4, .pageCross⟩,
  ⟨0xDD#8, .CMP, .absx, .two .cmpAbsx, 4, .pageCross⟩,
  ⟨0xDE#8, .DEC, .absx, .two .decAbsx, 7, .none⟩]

/-- The row Ex of the opcode map R144. -/
def opcodeRowE : List OpcodeRow := [
  ⟨0xE0#8, .CPX, .imm, .one .cpxImm, 2, .none⟩,
  ⟨0xE1#8, .SBC, .indx, .one .sbcIndx, 6, .none⟩,
  ⟨0xE4#8, .CPX, .zp, .one .cpxZp, 3, .none⟩,
  ⟨0xE5#8, .SBC, .zp, .one .sbcZp, 3, .none⟩,
  ⟨0xE6#8, .INC, .zp, .one .incZp, 5, .none⟩,
  ⟨0xE8#8, .INX, .imp, .zero .inx, 2, .none⟩,
  ⟨0xE9#8, .SBC, .imm, .one .sbcImm, 2, .none⟩,
  ⟨0xEA#8, .NOP, .imp, .zero .nop, 2, .none⟩,
  ⟨0xEC#8, .CPX, .abs, .two .cpxAbs, 4, .none⟩,
  ⟨0xED#8, .SBC, .abs, .two .sbcAbs, 4, .none⟩,
  ⟨0xEE#8, .INC, .abs, .two .incAbs, 6, .none⟩]

/-- The row Fx of the opcode map R144. -/
def opcodeRowF : List OpcodeRow := [
  ⟨0xF0#8, .BEQ, .rel, .one .beq, 2, .branch⟩,
  ⟨0xF1#8, .SBC, .indy, .one .sbcIndy, 5, .pageCross⟩,
  ⟨0xF5#8, .SBC, .zpx, .one .sbcZpx, 4, .none⟩,
  ⟨0xF6#8, .INC, .zpx, .one .incZpx, 6, .none⟩,
  ⟨0xF8#8, .SED, .imp, .zero .sed, 2, .none⟩,
  ⟨0xF9#8, .SBC, .absy, .two .sbcAbsy, 4, .pageCross⟩,
  ⟨0xFD#8, .SBC, .absx, .two .sbcAbsx, 4, .pageCross⟩,
  ⟨0xFE#8, .INC, .absx, .two .incAbsx, 7, .none⟩]

/-- The opcode map: the 151 documented opcodes (R144, R150). -/
def opcodeTable : List OpcodeRow :=
  opcodeRow0 ++ opcodeRow1 ++ opcodeRow2 ++ opcodeRow3 ++
  opcodeRow4 ++ opcodeRow5 ++ opcodeRow6 ++ opcodeRow7 ++
  opcodeRow8 ++ opcodeRow9 ++ opcodeRowA ++ opcodeRowB ++
  opcodeRowC ++ opcodeRowD ++ opcodeRowE ++ opcodeRowF

/-- The row of an opcode byte; none for the 105 undefined bytes (R143, R146). -/
def opcodeRow (op : Byte) : Option OpcodeRow := opcodeTable.find? (fun r => r.opcode == op)

/-- What decoding answers: an instruction and the bytes after it, a rejection that names the undefined opcode (R146), or that
the bytes end inside the instruction. -/
inductive Decoded where
  | ok (i : Instr) (rest : List Byte)
  | illegalOpcode (op : Byte)
  | truncated
  deriving DecidableEq, Repr

/-- The decoder: the opcode byte alone fixes the length (R140), operand words are little-endian (R142). -/
def decode : List Byte → Decoded
  | [] => .truncated
  | op :: bytes =>
    match opcodeRow op with
    | none => .illegalOpcode op
    | some row =>
      match row.form with
      | .zero i => .ok i bytes
      | .one f =>
        match bytes with
        | b1 :: rest => .ok (f b1) rest
        | [] => .truncated
      | .two f =>
        match bytes with
        | b1 :: b2 :: rest => .ok (f (word b1 b2)) rest
        | _ => .truncated

/-- The opcode byte of each instruction (R145). -/
def Instr.opcode : Instr → Byte
  | .adcIndx _ => 0x61#8
  | .adcZp _ => 0x65#8
  | .adcImm _ => 0x69#8
  | .adcAbs _ => 0x6D#8
  | .adcIndy _ => 0x71#8
  | .adcZpx _ => 0x75#8
  | .adcAbsy _ => 0x79#8
  | .adcAbsx _ => 0x7D#8
  | .andIndx _ => 0x21#8
  | .andZp _ => 0x25#8
  | .andImm _ => 0x29#8
  | .andAbs _ => 0x2D#8
  | .andIndy _ => 0x31#8
  | .andZpx _ => 0x35#8
  | .andAbsy _ => 0x39#8
  | .andAbsx _ => 0x3D#8
  | .aslZp _ => 0x06#8
  | .aslAcc => 0x0A#8
  | .aslAbs _ => 0x0E#8
  | .aslZpx _ => 0x16#8
  | .aslAbsx _ => 0x1E#8
  | .bcc _ => 0x90#8
  | .bcs _ => 0xB0#8
  | .beq _ => 0xF0#8
  | .bitZp _ => 0x24#8
  | .bitAbs _ => 0x2C#8
  | .bmi _ => 0x30#8
  | .bne _ => 0xD0#8
  | .bpl _ => 0x10#8
  | .brk => 0x00#8
  | .bvc _ => 0x50#8
  | .bvs _ => 0x70#8
  | .clc => 0x18#8
  | .cld => 0xD8#8
  | .cli => 0x58#8
  | .clv => 0xB8#8
  | .cmpIndx _ => 0xC1#8
  | .cmpZp _ => 0xC5#8
  | .cmpImm _ => 0xC9#8
  | .cmpAbs _ => 0xCD#8
  | .cmpIndy _ => 0xD1#8
  | .cmpZpx _ => 0xD5#8
  | .cmpAbsy _ => 0xD9#8
  | .cmpAbsx _ => 0xDD#8
  | .cpxImm _ => 0xE0#8
  | .cpxZp _ => 0xE4#8
  | .cpxAbs _ => 0xEC#8
  | .cpyImm _ => 0xC0#8
  | .cpyZp _ => 0xC4#8
  | .cpyAbs _ => 0xCC#8
  | .decZp _ => 0xC6#8
  | .decAbs _ => 0xCE#8
  | .decZpx _ => 0xD6#8
  | .decAbsx _ => 0xDE#8
  | .dex => 0xCA#8
  | .dey => 0x88#8
  | .eorIndx _ => 0x41#8
  | .eorZp _ => 0x45#8
  | .eorImm _ => 0x49#8
  | .eorAbs _ => 0x4D#8
  | .eorIndy _ => 0x51#8
  | .eorZpx _ => 0x55#8
  | .eorAbsy _ => 0x59#8
  | .eorAbsx _ => 0x5D#8
  | .incZp _ => 0xE6#8
  | .incAbs _ => 0xEE#8
  | .incZpx _ => 0xF6#8
  | .incAbsx _ => 0xFE#8
  | .inx => 0xE8#8
  | .iny => 0xC8#8
  | .jmpAbs _ => 0x4C#8
  | .jmpInd _ => 0x6C#8
  | .jsr _ => 0x20#8
  | .ldaIndx _ => 0xA1#8
  | .ldaZp _ => 0xA5#8
  | .ldaImm _ => 0xA9#8
  | .ldaAbs _ => 0xAD#8
  | .ldaIndy _ => 0xB1#8
  | .ldaZpx _ => 0xB5#8
  | .ldaAbsy _ => 0xB9#8
  | .ldaAbsx _ => 0xBD#8
  | .ldxImm _ => 0xA2#8
  | .ldxZp _ => 0xA6#8
  | .ldxAbs _ => 0xAE#8
  | .ldxZpy _ => 0xB6#8
  | .ldxAbsy _ => 0xBE#8
  | .ldyImm _ => 0xA0#8
  | .ldyZp _ => 0xA4#8
  | .ldyAbs _ => 0xAC#8
  | .ldyZpx _ => 0xB4#8
  | .ldyAbsx _ => 0xBC#8
  | .lsrZp _ => 0x46#8
  | .lsrAcc => 0x4A#8
  | .lsrAbs _ => 0x4E#8
  | .lsrZpx _ => 0x56#8
  | .lsrAbsx _ => 0x5E#8
  | .nop => 0xEA#8
  | .oraIndx _ => 0x01#8
  | .oraZp _ => 0x05#8
  | .oraImm _ => 0x09#8
  | .oraAbs _ => 0x0D#8
  | .oraIndy _ => 0x11#8
  | .oraZpx _ => 0x15#8
  | .oraAbsy _ => 0x19#8
  | .oraAbsx _ => 0x1D#8
  | .pha => 0x48#8
  | .php => 0x08#8
  | .pla => 0x68#8
  | .plp => 0x28#8
  | .rolZp _ => 0x26#8
  | .rolAcc => 0x2A#8
  | .rolAbs _ => 0x2E#8
  | .rolZpx _ => 0x36#8
  | .rolAbsx _ => 0x3E#8
  | .rorZp _ => 0x66#8
  | .rorAcc => 0x6A#8
  | .rorAbs _ => 0x6E#8
  | .rorZpx _ => 0x76#8
  | .rorAbsx _ => 0x7E#8
  | .rti => 0x40#8
  | .rts => 0x60#8
  | .sbcIndx _ => 0xE1#8
  | .sbcZp _ => 0xE5#8
  | .sbcImm _ => 0xE9#8
  | .sbcAbs _ => 0xED#8
  | .sbcIndy _ => 0xF1#8
  | .sbcZpx _ => 0xF5#8
  | .sbcAbsy _ => 0xF9#8
  | .sbcAbsx _ => 0xFD#8
  | .sec => 0x38#8
  | .sed => 0xF8#8
  | .sei => 0x78#8
  | .staIndx _ => 0x81#8
  | .staZp _ => 0x85#8
  | .staAbs _ => 0x8D#8
  | .staIndy _ => 0x91#8
  | .staZpx _ => 0x95#8
  | .staAbsy _ => 0x99#8
  | .staAbsx _ => 0x9D#8
  | .stxZp _ => 0x86#8
  | .stxAbs _ => 0x8E#8
  | .stxZpy _ => 0x96#8
  | .styZp _ => 0x84#8
  | .styAbs _ => 0x8C#8
  | .styZpx _ => 0x94#8
  | .tax => 0xAA#8
  | .tay => 0xA8#8
  | .tsx => 0xBA#8
  | .txa => 0x8A#8
  | .txs => 0x9A#8
  | .tya => 0x98#8

/-- The operand bytes of an operand, in the order they are fetched (R141, R142). -/
def Operand.bytes : Operand → List Byte
  | .imp => []
  | .acc => []
  | .imm v => [v]
  | .zp z => [z]
  | .zpx z => [z]
  | .zpy z => [z]
  | .abs a => [lowByte a, highByte a]
  | .absx a => [lowByte a, highByte a]
  | .absy a => [lowByte a, highByte a]
  | .ind a => [lowByte a, highByte a]
  | .indx z => [z]
  | .indy z => [z]
  | .rel r => [r]

/-- The encoder: the opcode byte, then the operand bytes. -/
def encode (i : Instr) : List Byte := i.opcode :: i.operand.bytes

/-- The first `n` bytes of a number, byte 0 first. -/
def bytesOfNat : Nat → Nat → List Byte
  | 0, _ => []
  | n + 1, w => BitVec.ofNat 8 w :: bytesOfNat n (w / 256)

/-- The three bytes of an instruction given as a number: bit 0 is the least significant bit of the first byte, and every bit
from `nbits` up is 0. -/
def tableWordBytes (nbits w : Nat) : List Byte := bytesOfNat 3 (w % 2 ^ nbits)

/-- The instruction the decoder reads from a table word. -/
def decodeTableWord (nbits w : Nat) : Option Instr :=
  match decode (tableWordBytes nbits w) with
  | .ok i _ => some i
  | .illegalOpcode _ => none
  | .truncated => none

end Sys2Proof
end

