-- ==== Sys2Proof/Machine/Memory.lean ====
section
/-! DEFINITION. Memories as plain data in one canonical form: a list of (address, byte) cells with strictly rising
addresses and no cell equal to what an unlisted address reads as. The same sparse list, without that second clause,
carries the pixels of the framebuffer. -/

namespace Sys2Proof.Machine

/-- The value a sparse list holds at a key. -/
def sparseGet {α : Type} : List (Nat × α) → Nat → Option α
  | [], _ => none
  | (k, v) :: rest, a => if k = a then some v else sparseGet rest a

/-- Store a value at a key, keeping the keys in rising order. -/
def sparseSet {α : Type} : List (Nat × α) → Nat → α → List (Nat × α)
  | [], a, v => [(a, v)]
  | (k, w) :: rest, a, v =>
    if a < k then (a, v) :: (k, w) :: rest
    else if a = k then (a, v) :: rest
    else (k, w) :: sparseSet rest a v

/-- Drop a key. -/
def sparseErase {α : Type} : List (Nat × α) → Nat → List (Nat × α)
  | [], _ => []
  | (k, w) :: rest, a => if k = a then sparseErase rest a else (k, w) :: sparseErase rest a

/-- Keys strictly rise. -/
abbrev sparseSorted {α : Type} (m : List (Nat × α)) : Prop := m.Pairwise (fun p q => p.1 < q.1)

/-- One byte memory (RAM, PRG-ROM, pattern memory, nametables, palette or OAM), addressed from 0. -/
abbrev Memory := List Host.Cell

/-- What an unlisted address reads as. DESIGN CHOICE, log entry 7: the spec's memories are draws at reset
(10_state.md R60). -/
def Memory.unlisted : Byte := 0x00#8

/-- Read one byte. -/
def Memory.read (m : Memory) (a : Nat) : Byte := (sparseGet m a).getD Memory.unlisted

/-- Write one byte, keeping the canonical form. -/
def Memory.write (m : Memory) (a : Nat) (v : Byte) : Memory :=
  if v = Memory.unlisted then sparseErase m a else sparseSet m a v

/-- Write consecutive bytes from `a` up. -/
def Memory.writeList (m : Memory) (a : Nat) : List Byte → Memory
  | [] => m
  | v :: vs => Memory.writeList (Memory.write m a v) (a + 1) vs

/-- The canonical form. -/
abbrev Memory.wf (m : Memory) : Prop := sparseSorted m ∧ ∀ c ∈ m, c.2 ≠ Memory.unlisted

/-- Every listed address is below `n`, the size of the memory. -/
abbrev Memory.below (m : Memory) (n : Nat) : Prop := ∀ c ∈ m, c.1 < n

end Sys2Proof.Machine
end

