-- ==== Sys2Proof/Config.lean ====
section
/-! DEFINITION. What is fixed for a run (spec 00_scope.md R9, R10; 10_state.md R58): the numeric parameters the spec settles, the
record of the parameters it leaves OPEN or to the host, and the free values. -/

namespace Sys2Proof

/-! ## Parameters the spec settles (R9, R10) -/

/-- P_CYCLES_PER_LINE. -/
def Config.cyclesPerLine : Nat := 341

/-- P_VISIBLE_ROWS. -/
def Config.visibleRows : Nat := 240

/-- P_FRAME_LINES: 240 visible, 1 post-render and 22 vblank rows (90_conflicts.md C4). -/
def Config.frameLines : Nat := 263

/-- P_TILE_ROW_HEIGHT. -/
def Config.tileRowHeight : Nat := 8

/-- P_TILE_COLUMNS. -/
def Config.tileColumns : Nat := 32

/-- P_OAM_SIZE. -/
def Config.oamSize : Nat := 256

/-- P_RAM_SIZE. -/
def Config.ramSize : Nat := 2048

/-- P_STACK_PAGE. -/
def Config.stackPage : Addr := 0x0100#16

/-- P_NMI_VECTOR. -/
def Config.nmiVector : Addr := 0xFFFA#16

/-- P_RESET_VECTOR. -/
def Config.resetVector : Addr := 0xFFFC#16

/-- The BRK vector (20_memory.md R91). -/
def Config.brkVector : Addr := 0xFFFE#16

/-- P_PRG_UNIT. -/
def Config.prgUnit : Nat := 16384

/-- P_NMI_CYCLES. -/
def Config.nmiCycles : Nat := 7

/-- P_DMA_CYCLES. -/
def Config.dmaCycles : Nat := 513

/-- The CPU address that triggers OAM DMA (20_memory.md R87). -/
def Config.dmaPort : Addr := 0x4014#16

/-! ## Parameters the spec leaves OPEN, and what the loader hands over -/

/-- P_MIRRORING (20_memory.md R105). -/
inductive Mirroring where
  | horizontal
  | vertical
  deriving DecidableEq, Repr

/-- P_ROM_WRITE (20_memory.md R90). -/
inductive RomWrite where
  | ignore
  | fault
  deriving DecidableEq, Repr

/-- P_IO_POLICY (20_memory.md R88). -/
inductive IoPolicy where
  | fault
  | stub
  deriving DecidableEq, Repr

/-- P_CHR_WRITE (20_memory.md R104). -/
inductive ChrWrite where
  | ignore
  | store
  | fault
  deriving DecidableEq, Repr

/-- P_COST (70_reset_and_hazards.md R520): the reference costs of the opcode table, or any function of the opcode byte, the page
crossing and the branch taken, written as a list of costs at index 4 op + 2 crossed + taken (log entry 11). -/
inductive CostFunction where
  | reference
  | table (costs : List Nat)
  deriving DecidableEq, Repr

/-- The parameters of the model (R10). They are plain data and no step changes them (log entry 2), so that a claim about every
state is a claim about every value of them. -/
structure Params where
  /-- P_PRG: the listed bytes of the image, by offset. -/
  prg : Machine.Memory
  /-- P_PRG has length 16384 times this number, at least 1. -/
  prgUnits : Nat
  /-- P_CHR: none for length 0, else the listed bytes of its 8192. -/
  chr : Option Machine.Memory
  /-- P_MIRRORING. -/
  mirroring : Mirroring
  /-- P_ROM_WRITE. -/
  romWrite : RomWrite
  /-- P_IO_POLICY. -/
  ioPolicy : IoPolicy
  /-- P_CHR_WRITE. -/
  chrWrite : ChrWrite
  /-- P_COST. -/
  cost : CostFunction
  /-- P_PPU_RATIO, at least 1. -/
  ppuRatio : Nat
  /-- P_PAL_CHAIN. -/
  palChain : Bool
  /-- P_SPRITE_Y_OFFSET. -/
  spriteYOffset : Fin 2
  /-- P_ZOOM, at least 1. -/
  zoom : Nat
  deriving DecidableEq, Repr

/-- What the loader guarantees of an image and of the parameters (R10; 60_exceptions.md R493). -/
abbrev Params.wf (p : Params) : Prop :=
  Machine.Memory.wf p.prg ∧ 1 ≤ p.prgUnits ∧ Machine.Memory.below p.prg (Config.prgUnit * p.prgUnits) ∧
  (∀ m ∈ p.chr, Machine.Memory.wf m ∧ Machine.Memory.below m 8192) ∧ 1 ≤ p.ppuRatio ∧ 1 ≤ p.zoom

/-- The parameters State.reset carries. DESIGN CHOICE, log entries 3 and 8: the values 95_test_vectors.md uses unless a vector
says otherwise, and an image with no byte listed. No statement rests on them. -/
def Params.initial : Params where
  prg := []
  prgUnits := 1
  chr := none
  mirroring := .vertical
  romWrite := .ignore
  ioPolicy := .fault
  chrWrite := .ignore
  cost := .reference
  ppuRatio := 3
  palChain := false
  spriteYOffset := 1
  zoom := 1

/-! ## Free values -/

/-- The free bytes a step draws: PPUSTATUS bits 5 to 0 (46_ppu_registers.md R352) and reads of the unmapped region under Stub
(20_memory.md R88). Log entry 5. -/
opaque Config.draw : Nat → Byte

/-- P_SYSTEM_PALETTE: the ARGB colour of a 6-bit colour index (48_compositor.md R426). Log entry 4. -/
opaque Config.systemPalette : BitVec 6 → Pixel

/-- The reset draw of the framebuffer pixel in column `x` of row `y` (48_compositor.md R432). Log entry 10. -/
opaque Config.resetPixel : Nat → Nat → Pixel

end Sys2Proof
end

