-- ==== Sys2Proof/Machine/State.lean ====
section
/-! DEFINITION. The state of the CORE (spec 10_state.md), the reasons it stops, and the state after reset. The owners of R30 to
R59 are its parts: the CPU, the PPU's registers, its scanline engine, its memories, the renderer, and the shared NMI flag. -/

namespace Sys2Proof.Machine

/-- The direction of an access, as a fault records it (60_exceptions.md R451). -/
inductive Dir where
  | read
  | write
  deriving DecidableEq, Repr

/-- A capability of an Operand that a fault can name (60_exceptions.md R451). -/
inductive Capability where
  | address
  | value
  deriving DecidableEq, Repr

/-- The eight PPU registers, in index order (20_memory.md R86). -/
inductive PpuReg where
  | ctrl
  | mask
  | status
  | oamAddr
  | oamData
  | scroll
  | addr
  | data
  deriving DecidableEq, Repr

/-- The fault values of 60_exceptions.md R451. The step that meets one records it in the state, with the effects R453 gives, and
answers that state (log entry 1). The outcome `fault` is answered by `step` in every state that holds a record: the machine has
stopped and stays stopped (R452). Safe: the real console goes on in these cases, and the model does not. -/
inductive Fault where
  /-- Raised by the opcode fetch of one of the 105 undefined bytes (30_encoding.md R146). Safe. -/
  | illegalOpcode (op : Byte) (pc : Addr)
  /-- Raised by a CPU access to 0x4000-0x7FFF under P_IO_POLICY = Fault, but for the write to 0x4014 (20_memory.md R88). Safe. -/
  | busUnmapped (addr : Addr) (dir : Dir)
  /-- Raised by a PPU register access in a direction the register does not have (20_memory.md R86). Safe. -/
  | ppuRegisterUndefined (r : PpuReg) (dir : Dir)
  /-- Raised by a CPU write to PRG-ROM under P_ROM_WRITE = Fault (20_memory.md R90). Safe. -/
  | romWrite (addr : Addr) (v : Byte)
  /-- Raised by a PPUDATA write to pattern memory under P_CHR_WRITE = Fault (20_memory.md R104). Safe. -/
  | chrWrite (a : BitVec 14) (v : Byte)
  /-- Raised by an instruction that asks for a capability its mode lacks (40_addressing_modes.md R172); no instruction does. Safe. -/
  | operandCapability (mode : Mode) (cap : Capability)
  /-- Raised by an OAM transfer of a buffer that is not 256 bytes long (20_memory.md R110); the CORE makes none. Safe. -/
  | oamTransferSize (len : Nat)
  deriving DecidableEq, Repr

/-- The reasons a step has no meaning. -/
inductive Refusal where
  /-- For an arm of exec that has no meaning; no arm of this model answers it. Safe. -/
  | notModelled (mnemonic : String)
  deriving DecidableEq, Repr

/-- The CPU's macro-states (10_state.md R38). The last one carries the fault record of R59 (log entry 14). -/
inductive MacroState where
  | running
  | servicingInterrupt
  | faulted (f : Fault)
  deriving DecidableEq, Repr

/-- The seven stored flags of P (10_state.md R33). -/
structure Flags where
  c : Bool
  z : Bool
  i : Bool
  d : Bool
  b : Bool
  v : Bool
  n : Bool
  deriving DecidableEq, Repr

/-- The CPU's registers (10_state.md R30 to R33) and its macro-state (R38). -/
structure Cpu where
  a : Byte
  x : Byte
  y : Byte
  sp : Byte
  pc : Addr
  p : Flags
  macroState : MacroState
  deriving DecidableEq, Repr

/-- The write toggle w (10_state.md R47). -/
inductive Toggle where
  | first
  | second
  deriving DecidableEq, Repr

/-- The PPU's registers and latches (10_state.md R41 to R48). -/
structure PpuRegs where
  ctrl : Byte
  mask : Byte
  vbl : Bool
  s0 : Bool
  oamAddr : Byte
  scrollX : Byte
  scrollY : Byte
  vramAddr : Addr
  w : Toggle
  readBuf : Byte
  deriving DecidableEq, Repr

/-- The scanline engine (10_state.md R49). -/
structure Scanline where
  cycAcc : Nat
  line : Nat
  rowCursor : Nat
  deriving DecidableEq, Repr

/-- The PPU's memories (10_state.md R52 to R55). -/
structure VideoMemory where
  chr : Memory
  ciram : Memory
  pal : Memory
  oam : Memory
  deriving DecidableEq, Repr

/-- A draw item (10_state.md R56). A background item has no sprite number (log entry 17). -/
structure DrawItem where
  pat : Addr
  palBase : Addr
  sprite : Option (Fin 64)
  palette : BitVec 2
  x : Int
  y : Int
  hflip : Bool
  vflip : Bool
  deriving DecidableEq, Repr

/-- The framebuffer (10_state.md R57): the pixels written since reset, by row and then by column, both rising. A pixel that is
not listed holds its reset draw (log entry 10). -/
abbrev Framebuffer := List (Nat × List (Nat × Pixel))

/-- The renderer's state (10_state.md R56, R57). -/
structure Renderer where
  bg : List DrawItem
  behind : List DrawItem
  front : List DrawItem
  fb : Framebuffer
  deriving DecidableEq, Repr

/-- What a system step answers to the host (60_exceptions.md R470, R491): nothing yet, Stepped(cycles, frames), or Faulted. -/
inductive Report where
  | none
  | stepped (cycles frames : Nat)
  | faulted
  deriving DecidableEq, Repr

/-- A block handed to the framebuffer sink (48_compositor.md R429, R437). -/
structure Publication where
  x : Nat
  y : Nat
  w : Nat
  h : Nat
  pixels : Framebuffer
  deriving DecidableEq, Repr

/-- The state of the machine. -/
structure State where
  /-- The CPU's registers and macro-state. -/
  cpu : Cpu
  /-- CPU RAM (10_state.md R50). -/
  ram : Memory
  /-- The NMI pending flag (10_state.md R40). -/
  nmiPending : Bool
  /-- The PPU's registers and latches. -/
  ppu : PpuRegs
  /-- The scanline engine. -/
  scan : Scanline
  /-- The PPU's memories. -/
  vmem : VideoMemory
  /-- The item layers and the framebuffer. -/
  rend : Renderer
  /-- The parameters (log entry 2): no step changes them. -/
  params : Params
  /-- How many free bytes have been drawn (log entry 5): the model's own. -/
  draws : Nat
  /-- The answer of the last system step to the host (log entry 13): the model's own. -/
  report : Report
  /-- The blocks the last system step handed to the sink, in order (log entry 13): the model's own. -/
  published : List Publication
  deriving DecidableEq, Repr

/-- The fault record (10_state.md R59): the f of faulted(f). -/
def State.fault (s : State) : Option Fault :=
  match s.cpu.macroState with
  | .running => none
  | .servicingInterrupt => none
  | .faulted f => some f

/-- The result of a part of a step: it goes on with a value, or it has raised a fault and stops in the state that holds the
record (60_exceptions.md R453). -/
inductive Res (α : Type) where
  | ok (a : α) (s : State)
  | stopped (s : State)
  deriving DecidableEq, Repr

/-- The free inputs of reset, each marked "draw" in 10_state.md R60. -/
structure ResetDraws where
  a : Byte
  x : Byte
  y : Byte
  c : Bool
  z : Bool
  v : Bool
  n : Bool
  b : Bool
  ram : Memory
  /-- Pattern RAM, used when P_CHR has length 0. -/
  chr : Memory
  ciram : Memory
  pal : Memory
  oam : Memory
  fb : Framebuffer
  /-- Where the free bytes of this run begin. -/
  draws : Nat
  deriving DecidableEq, Repr

/-- The machine right after reset (70_reset_and_hazards.md R500, 10_state.md R60). The registers and memories the spec leaves as
draws hold zero here (DESIGN CHOICE, log entries 6 and 7), and the image has no byte listed, so that the reset vector reads
0x0000 (log entry 8). Reset for every image and every draw is resetWith, in Machine/Reset.lean. -/
def State.reset : State where
  cpu := { a := 0x00, x := 0x00, y := 0x00, sp := 0xFF, pc := 0x0000,
           p := { c := false, z := false, i := true, d := false, b := false, v := false, n := false },
           macroState := .running }
  ram := []
  nmiPending := false
  ppu := { ctrl := 0x00, mask := 0x00, vbl := false, s0 := false, oamAddr := 0x00, scrollX := 0x00, scrollY := 0x00,
           vramAddr := 0x0000, w := .first, readBuf := 0x00 }
  scan := { cycAcc := 0, line := 0, rowCursor := 0 }
  vmem := { chr := [], ciram := [], pal := [], oam := [] }
  rend := { bg := [], behind := [], front := [], fb := [] }
  params := Params.initial
  draws := 0
  report := .none
  published := []

end Sys2Proof.Machine
end

