-- ==== Sys2Proof/Machine/Update.lean ====
section
/-! DEFINITION. The named updates of State, and how the parts of a step follow one another: a part that has raised a fault ends
the step there (60_exceptions.md R453). -/

namespace Sys2Proof.Machine

def State.setA (s : State) (v : Byte) : State := { s with cpu.a := v }
def State.setX (s : State) (v : Byte) : State := { s with cpu.x := v }
def State.setY (s : State) (v : Byte) : State := { s with cpu.y := v }
def State.setSp (s : State) (v : Byte) : State := { s with cpu.sp := v }
def State.setPc (s : State) (a : Addr) : State := { s with cpu.pc := a }
def State.setP (s : State) (p : Flags) : State := { s with cpu.p := p }
def State.setMacro (s : State) (m : MacroState) : State := { s with cpu.macroState := m }
def State.setRam (s : State) (m : Memory) : State := { s with ram := m }
def State.setNmi (s : State) (b : Bool) : State := { s with nmiPending := b }
def State.setPpu (s : State) (r : PpuRegs) : State := { s with ppu := r }
def State.setScan (s : State) (e : Scanline) : State := { s with scan := e }
def State.setVmem (s : State) (m : VideoMemory) : State := { s with vmem := m }
def State.setRend (s : State) (r : Renderer) : State := { s with rend := r }
def State.setParams (s : State) (p : Params) : State := { s with params := p }
def State.setDraws (s : State) (n : Nat) : State := { s with draws := n }
def State.setReport (s : State) (r : Report) : State := { s with report := r }
def State.setPublished (s : State) (ps : List Publication) : State := { s with published := ps }

/-- `raise Fault(f)`: the record is set and the machine is faulted(f) (60_exceptions.md R451). Nothing else happens (R453). -/
def raise {α : Type} (f : Fault) (s : State) : Res α := .stopped (s.setMacro (.faulted f))

/-- One part of a step after another; a part that has stopped ends the step. -/
def Res.bind {α β : Type} (r : Res α) (k : α → State → Res β) : Res β :=
  match r with
  | .ok a s => k a s
  | .stopped s => .stopped s

/-- What a meaning answers: the state its last part leaves, with the record in it if a fault was raised (log entry 1). -/
def finish (r : Res Unit) : Host.Outcome State Fault Refusal :=
  match r with
  | .ok _ s => .next s
  | .stopped s => .next s

/-- The numeric code of a fault value (60_exceptions.md R451). -/
def Fault.code : Fault → Nat
  | .illegalOpcode _ _ => 1
  | .busUnmapped _ _ => 2
  | .ppuRegisterUndefined _ _ => 3
  | .romWrite _ _ => 4
  | .chrWrite _ _ => 5
  | .operandCapability _ _ => 6
  | .oamTransferSize _ => 7

end Sys2Proof.Machine
end

