-- ==== Sys2Proof/Machine/Flags.lean ====
section
/-! DEFINITION. Every flag computation of the spec: the shared Z and N rule (00_scope.md R13), add and subtract (42_arith_logic.md
R230, R231), compare (R235), bit test (R239), the shifts (43_shift_rotate.md R271 to R274), and the status byte (10_state.md R34). -/

namespace Sys2Proof.Machine

/-- Z and N from a byte (R13). -/
def flagsZN (v : Byte) (p : Flags) : Flags := { p with z := decide (v = 0x00), n := bit v 7 }

/-- Z and N from a byte, in the state. -/
def State.setZN (s : State) (v : Byte) : State := s.setP (flagsZN v s.cpu.p)

/-- The 9-bit sum of the accumulator, an operand and the carry (R230). -/
def addSum (a m : Byte) (c : Bool) : Nat := a.toNat + m.toNat + flag c

/-- The byte of the sum. -/
def addResult (a m : Byte) (c : Bool) : Byte := BitVec.ofNat 8 (addSum a m c)

/-- V: operand and accumulator share a sign that the result does not have (R230). -/
def addOverflow (a m : Byte) (c : Bool) : Bool :=
  bit a 7 == bit m 7 && bit (addResult a m c) 7 != bit m 7

/-- The flags of an addition: C, V, and Z and N from the result. -/
def flagsAdd (a m : Byte) (p : Flags) : Flags :=
  flagsZN (addResult a m p.c) { p with c := decide (addSum a m p.c > 255), v := addOverflow a m p.c }

/-- Compare a register with an operand (R235): C is set when there is no borrow, Z and N are from the byte of the difference. -/
def flagsCompare (reg m : Byte) (p : Flags) : Flags :=
  flagsZN (reg - m) { p with c := decide (m.toNat ≤ reg.toNat) }

/-- Bit test (R239): Z from the AND, N and V from the operand. -/
def flagsBitTest (a m : Byte) (p : Flags) : Flags :=
  { p with z := decide (a &&& m = 0x00), n := bit m 7, v := bit m 6 }

/-- ASL (R271): the result and the carry out. The carry in is ignored. -/
def shiftAsl (m : Byte) (_ : Bool) : Byte × Bool := (m <<< 1, bit m 7)

/-- LSR (R272). The carry in is ignored. -/
def shiftLsr (m : Byte) (_ : Bool) : Byte × Bool := (m >>> 1, bit m 0)

/-- ROL (R273). -/
def shiftRol (m : Byte) (c : Bool) : Byte × Bool := ((m <<< 1) ||| (BitVec.ofBool c).setWidth 8, bit m 7)

/-- ROR (R274). -/
def shiftRor (m : Byte) (c : Bool) : Byte × Bool := ((m >>> 1) ||| ((BitVec.ofBool c).setWidth 8 <<< 7), bit m 0)

/-- The flags of a shift: C is the carry out, Z and N are from the result (R270). -/
def flagsShift (r : Byte) (c : Bool) (p : Flags) : Flags := flagsZN r { p with c := c }

/-- `pack(P, b)`: N V 1 b D I Z C from bit 7 down (10_state.md R34). -/
def pack (p : Flags) (b : Bool) : Byte :=
  BitVec.ofNat 8 (flag p.n * 0x80 + flag p.v * 0x40 + 0x20 + flag b * 0x10 + flag p.d * 0x08 + flag p.i * 0x04 +
    flag p.z * 0x02 + flag p.c)

/-- `unpack(v)`: all seven flags; bit 5 is dropped (10_state.md R34). -/
def unpack (v : Byte) : Flags where
  c := bit v 0
  z := bit v 1
  i := bit v 2
  d := bit v 3
  b := bit v 4
  v := bit v 6
  n := bit v 7

end Sys2Proof.Machine
end

