-- ==== Sys2Proof/Machine/PpuMemory.lean ====
section
/-! DEFINITION. The PPU's address space (spec 20_memory.md R100 to R110): pattern memory, mirrored nametables, the palette with
its two address adjustments, and OAM. -/

namespace Sys2Proof.Machine

/-- The 14 bits of a PPU address that are used (R100). -/
def ppuAddress (a : Addr) : Nat := a.toNat % 0x4000

/-- The physical nametable byte behind a PPU address in 0x2000-0x3EFF (R105). -/
def ntIndex (m : Mirroring) (a : Nat) : Nat :=
  let n := (a - 0x2000) % 0x1000
  let logical := n / 0x400
  let offset := n % 0x400
  let phys := match m with
    | .vertical => logical % 2
    | .horizontal => logical / 2
  phys * 0x400 + offset

/-- The background mirror slots 0x04, 0x08 and 0x0C read as slot 0x00 (R106). -/
def palReadBackground (p : Nat) : Nat :=
  if p = 0x04 ∨ p = 0x08 ∨ p = 0x0C then 0x00 else p

/-- The palette index a read uses (R106); `chain` is P_PAL_CHAIN. -/
def palReadIndex (chain : Bool) (a : Nat) : Nat :=
  let p := a % 0x20
  if p = 0x10 ∨ p = 0x14 ∨ p = 0x18 ∨ p = 0x1C then
    if chain then palReadBackground (p - 0x10) else p - 0x10
  else palReadBackground p

/-- The palette index a write uses (R107). -/
def palWriteIndex (a : Nat) : Nat :=
  let p := a % 0x20
  if p = 0x10 ∨ p = 0x14 ∨ p = 0x18 ∨ p = 0x1C then p - 0x10 else p

/-- `PpuRead` (R101): no side effects. -/
def ppuMemRead (addr : Addr) (s : State) : Byte :=
  let a := ppuAddress addr
  if a < 0x2000 then s.vmem.chr.read a
  else if a < 0x3F00 then s.vmem.ciram.read (ntIndex s.params.mirroring a)
  else s.vmem.pal.read (palReadIndex s.params.palChain a)

/-- A write to pattern memory, by P_CHR_WRITE (R104). -/
def chrMemWrite (a : Nat) (v : Byte) (s : State) : Res Unit :=
  match s.params.chrWrite with
  | .ignore => .ok () s
  | .store => .ok () (s.setVmem { s.vmem with chr := s.vmem.chr.write a v })
  | .fault => raise (.chrWrite (BitVec.ofNat 14 a) v) s

/-- `PpuWrite` (R102). -/
def ppuMemWrite (addr : Addr) (v : Byte) (s : State) : Res Unit :=
  let a := ppuAddress addr
  if a < 0x2000 then chrMemWrite a v s
  else if a < 0x3F00 then
    .ok () (s.setVmem { s.vmem with ciram := s.vmem.ciram.write (ntIndex s.params.mirroring a) v })
  else .ok () (s.setVmem { s.vmem with pal := s.vmem.pal.write (palWriteIndex a) v })

/-- `OamTransfer` (R110): 256 bytes from index 0, or a fault and no change. -/
def oamTransfer (buf : List Byte) (s : State) : Res Unit :=
  if buf.length = Config.oamSize then .ok () (s.setVmem { s.vmem with oam := s.vmem.oam.writeList 0 buf })
  else raise (.oamTransferSize buf.length) s

end Sys2Proof.Machine
end

