-- ==== Sys2Proof/Machine/PpuRegisters.lean ====
section
/-! DEFINITION. The CPU's reads and writes of the PPU registers (spec 46_ppu_registers.md, 20_memory.md R86, 10_state.md R41 to
R43). -/

namespace Sys2Proof.Machine

/-! ## The fields of the control bytes (10_state.md R41, R42) -/

/-- PPUCTRL.NT bit 0. -/
def ctrlNt0 (r : PpuRegs) : Bool := bit r.ctrl 0
/-- PPUCTRL.NT bit 1. -/
def ctrlNt1 (r : PpuRegs) : Bool := bit r.ctrl 1
/-- PPUCTRL.INC. -/
def ctrlInc (r : PpuRegs) : Bool := bit r.ctrl 2
/-- PPUCTRL.SPT. -/
def ctrlSpt (r : PpuRegs) : Bool := bit r.ctrl 3
/-- PPUCTRL.BPT. -/
def ctrlBpt (r : PpuRegs) : Bool := bit r.ctrl 4
/-- PPUCTRL.SH. -/
def ctrlSh (r : PpuRegs) : Bool := bit r.ctrl 5
/-- PPUCTRL.NMIE. -/
def ctrlNmie (r : PpuRegs) : Bool := bit r.ctrl 7
/-- PPUMASK.BGE. -/
def maskBge (r : PpuRegs) : Bool := bit r.mask 3
/-- PPUMASK.SPE. -/
def maskSpe (r : PpuRegs) : Bool := bit r.mask 4

/-- The register at a CPU address of the window: index = addr mod 8 (20_memory.md R85, R86). -/
def ppuRegAt (a : Addr) : PpuReg :=
  match a.toNat % 8 with
  | 0 => .ctrl
  | 1 => .mask
  | 2 => .status
  | 3 => .oamAddr
  | 4 => .oamData
  | 5 => .scroll
  | 6 => .addr
  | _ => .data

/-- The index of a register, as a fault record gives it (20_memory.md R86). -/
def ppuRegIndex : PpuReg → Nat
  | .ctrl => 0
  | .mask => 1
  | .status => 2
  | .oamAddr => 3
  | .oamData => 4
  | .scroll => 5
  | .addr => 6
  | .data => 7

/-- R350. -/
def writeCtrl (v : Byte) (s : State) : State := s.setPpu { s.ppu with ctrl := v }

/-- R351. -/
def writeMask (v : Byte) (s : State) : State := s.setPpu { s.ppu with mask := v }

/-- The status byte: VBL, S0, and six free bits (10_state.md R43). -/
def statusByte (vbl s0 : Bool) (free : Byte) : Byte :=
  (BitVec.ofBool vbl ++ BitVec.ofBool s0) ++ (free.setWidth 6 : BitVec 6)

/-- R352: bits 5 to 0 are a fresh draw (log entry 5); VBL is cleared, nothing else is. -/
def readStatus (s : State) : Res Byte :=
  .ok (statusByte s.ppu.vbl s.ppu.s0 (Config.draw s.draws)) ((s.setPpu { s.ppu with vbl := false }).setDraws (s.draws + 1))

/-- R353. -/
def writeOamAddr (v : Byte) (s : State) : State := s.setPpu { s.ppu with oamAddr := v }

/-- R354. -/
def writeOamData (v : Byte) (s : State) : State :=
  (s.setVmem { s.vmem with oam := s.vmem.oam.write s.ppu.oamAddr.toNat v }).setPpu { s.ppu with oamAddr := s.ppu.oamAddr + 1 }

/-- R355: the cursor does not move. -/
def readOamData (s : State) : Byte := s.vmem.oam.read s.ppu.oamAddr.toNat

/-- R356. -/
def writeScroll (v : Byte) (s : State) : State :=
  match s.ppu.w with
  | .first => s.setPpu { s.ppu with scrollX := v, w := .second }
  | .second => s.setPpu { s.ppu with scrollY := v, w := .first }

/-- R357: the high byte shifted into place, then the low byte added. -/
def writeAddr (v : Byte) (s : State) : State :=
  match s.ppu.w with
  | .first => s.setPpu { s.ppu with vramAddr := word 0x00 v, w := .second }
  | .second => s.setPpu { s.ppu with vramAddr := s.ppu.vramAddr + zext16 v, w := .first }

/-- The step of the VRAM pointer (R358). -/
def vramStep (r : PpuRegs) : Addr := if ctrlInc r then 32 else 1

/-- R358. -/
def advanceVram (s : State) : State := s.setPpu { s.ppu with vramAddr := s.ppu.vramAddr + vramStep s.ppu }

/-- R359. -/
def writeData (v : Byte) (s : State) : Res Unit :=
  (ppuMemWrite s.ppu.vramAddr v s).bind fun _ s => .ok () (advanceVram s)

/-- R360: buffered below the palette, immediate in it. -/
def readData (s : State) : Res Byte :=
  let fetched := ppuMemRead s.ppu.vramAddr s
  if ppuAddress s.ppu.vramAddr < 0x3F00 then
    .ok s.ppu.readBuf (advanceVram (s.setPpu { s.ppu with readBuf := fetched }))
  else .ok fetched (advanceVram s)

/-- A CPU read of a PPU register (20_memory.md R86). -/
def ppuRegRead (r : PpuReg) (s : State) : Res Byte :=
  match r with
  | .ctrl => raise (.ppuRegisterUndefined .ctrl .read) s
  | .mask => raise (.ppuRegisterUndefined .mask .read) s
  | .status => readStatus s
  | .oamAddr => raise (.ppuRegisterUndefined .oamAddr .read) s
  | .oamData => .ok (readOamData s) s
  | .scroll => raise (.ppuRegisterUndefined .scroll .read) s
  | .addr => raise (.ppuRegisterUndefined .addr .read) s
  | .data => readData s

/-- A CPU write of a PPU register (20_memory.md R86). -/
def ppuRegWrite (r : PpuReg) (v : Byte) (s : State) : Res Unit :=
  match r with
  | .ctrl => .ok () (writeCtrl v s)
  | .mask => .ok () (writeMask v s)
  | .status => raise (.ppuRegisterUndefined .status .write) s
  | .oamAddr => .ok () (writeOamAddr v s)
  | .oamData => .ok () (writeOamData v s)
  | .scroll => .ok () (writeScroll v s)
  | .addr => .ok () (writeAddr v s)
  | .data => writeData v s

end Sys2Proof.Machine
end

