-- ==== Sys2Proof/Machine/Ops.lean ====
section
/-! DEFINITION. The named operations over memory and registers: the bus router with OAM DMA (spec 20_memory.md R80 to R94), the
stack (10_state.md R36, R37), entering an interrupt and returning from one (60_exceptions.md R460, 44_control_flow.md R302, R303),
and fetching an instruction (60_exceptions.md R471). -/

namespace Sys2Proof.Machine

/-! ## The bus router -/

/-- A PRG-ROM byte: `prg[(addr - 0x8000) mod len(prg)]` (R89). -/
def prgByte (p : Params) (a : Addr) : Byte := p.prg.read ((a.toNat - 0x8000) % (Config.prgUnit * p.prgUnits))

/-- A read of the unmapped region, by P_IO_POLICY (R88). Under Stub it is a fresh draw (log entry 5). -/
def ioRead (a : Addr) (s : State) : Res Byte :=
  match s.params.ioPolicy with
  | .fault => raise (.busUnmapped a .read) s
  | .stub => .ok (Config.draw s.draws) (s.setDraws (s.draws + 1))

/-- A write to the unmapped region other than to 0x4014, by P_IO_POLICY (R88). -/
def ioWrite (a : Addr) (s : State) : Res Unit :=
  match s.params.ioPolicy with
  | .fault => raise (.busUnmapped a .write) s
  | .stub => .ok () s

/-- `Read(addr)`: one CPU bus read (R83). -/
def busRead (a : Addr) (s : State) : Res Byte :=
  if a.toNat < 0x2000 then .ok (s.ram.read (a.toNat % Config.ramSize)) s
  else if a.toNat < 0x4000 then ppuRegRead (ppuRegAt a) s
  else if a.toNat < 0x8000 then ioRead a s
  else .ok (prgByte s.params a) s

/-- `n` consecutive bus reads from `a` up, in order. -/
def readBlock : Nat → Addr → State → Res (List Byte)
  | 0, _, s => .ok [] s
  | n + 1, a, s => (busRead a s).bind fun v s => (readBlock n (a + 1) s).bind fun vs s => .ok (v :: vs) s

/-- OAM DMA from page `v`: 256 bus reads in order, then the transfer (R87, R94). -/
def oamDma (v : Byte) (s : State) : Res Unit := (readBlock 256 (word 0x00 v) s).bind oamTransfer

/-- A write to PRG-ROM, by P_ROM_WRITE (R90). -/
def romWrite (a : Addr) (v : Byte) (s : State) : Res Unit :=
  match s.params.romWrite with
  | .ignore => .ok () s
  | .fault => raise (.romWrite a v) s

/-- `Write(addr, v)`: one CPU bus write (R83). -/
def busWrite (a : Addr) (v : Byte) (s : State) : Res Unit :=
  if a.toNat < 0x2000 then .ok () (s.setRam (s.ram.write (a.toNat % Config.ramSize) v))
  else if a.toNat < 0x4000 then ppuRegWrite (ppuRegAt a) v s
  else if a = Config.dmaPort then oamDma v s
  else if a.toNat < 0x8000 then ioWrite a s
  else romWrite a v s

/-- `ReadWord(addr)`: two reads, low byte first (R81). -/
def readWord (a : Addr) (s : State) : Res Addr :=
  (busRead a s).bind fun lo s => (busRead (a + 1) s).bind fun hi s => .ok (word lo hi) s

/-- The byte at a CPU address whose reading has no side effect: RAM or PRG-ROM (R92). -/
def peek (s : State) (a : Addr) : Option Byte :=
  if a.toNat < 0x2000 then some (s.ram.read (a.toNat % Config.ramSize))
  else if a.toNat < 0x8000 then none
  else some (prgByte s.params a)

/-! ## The stack -/

/-- The address SP names (10_state.md R31). -/
def stackAddr (sp : Byte) : Addr := Config.stackPage + zext16 sp

/-- `Push(v)` (R36). -/
def push (v : Byte) (s : State) : Res Unit :=
  (busWrite (stackAddr s.cpu.sp) v s).bind fun _ s => .ok () (s.setSp (s.cpu.sp - 1))

/-- `Pull()` (R36). -/
def pull (s : State) : Res Byte := busRead (stackAddr (s.cpu.sp + 1)) (s.setSp (s.cpu.sp + 1))

/-- `Push16(w)`: high byte first (R37). -/
def push16 (w : Addr) (s : State) : Res Unit := (push (highByte w) s).bind fun _ s => push (lowByte w) s

/-- `Pull16()` (R37). -/
def pull16 (s : State) : Res Addr := (pull s).bind fun lo s => (pull s).bind fun hi s => .ok (word lo hi) s

/-! ## Interrupts -/

/-- Entering an interrupt: push the return address and the status byte with `b` as its bit 4, set I, and go to the vector
(60_exceptions.md R460; 44_control_flow.md R302). -/
def enterInterrupt (ret : Addr) (b : Bool) (vector : Addr) (s : State) : Res Unit :=
  (push16 ret s).bind fun _ s =>
    (push (pack s.cpu.p b) s).bind fun _ s =>
      (readWord vector (s.setP { s.cpu.p with i := true })).bind fun target s => .ok () (s.setPc target)

/-- Returning from an interrupt: pull the status byte, then PC (44_control_flow.md R303). -/
def returnFromInterrupt (s : State) : Res Unit :=
  (pull s).bind fun v s => (pull16 (s.setP (unpack v))).bind fun pc s => .ok () (s.setPc pc)

/-- NMI entry: the servicing-interrupt macro-state, left at the end of the same step (60_exceptions.md R460, 10_state.md R38). -/
def nmiEntry (s : State) : Res Unit :=
  (enterInterrupt s.cpu.pc false Config.nmiVector (s.setMacro .servicingInterrupt)).bind fun _ s =>
    .ok () (s.setMacro .running)

/-! ## Fetch -/

/-- Fetch the byte at PC; PC moves past it (10_state.md R32). -/
def fetchByte (s : State) : Res Byte := (busRead s.cpu.pc s).bind fun v s => .ok v (s.setPc (s.cpu.pc + 1))

/-- Fetch an instruction: the opcode byte, then the operand bytes of its mode, each through the bus (40_addressing_modes.md R171,
60_exceptions.md R471). An undefined opcode faults before any operand fetch (30_encoding.md R146). -/
def fetchInstr (s : State) : Res Instr :=
  (fetchByte s).bind fun op s1 =>
    match opcodeRow op with
    | none => raise (.illegalOpcode op s.cpu.pc) s1
    | some row =>
      match row.form with
      | .zero i => .ok i s1
      | .one f => (fetchByte s1).bind fun b1 s2 => .ok (f b1) s2
      | .two f => (fetchByte s1).bind fun b1 s2 => (fetchByte s2).bind fun b2 s3 => .ok (f (word b1 b2)) s3

end Sys2Proof.Machine
end

