-- ==== Sys2Proof/Machine/Operands.lean ====
section
/-! DEFINITION. Every operand form of the spec (40_addressing_modes.md R170 to R187): the address, the value and the branch target
an addressing mode exposes, and where a result is written back. -/

namespace Sys2Proof.Machine

/-- The modes that expose an address (40_addressing_modes.md R173 to R185). -/
def modeHasAddress : Mode → Bool
  | .zp | .zpx | .zpy | .abs | .absx | .absy | .ind | .indx | .indy => true
  | .imp | .acc | .imm | .rel => false

/-- The modes that expose a value (40_addressing_modes.md R173 to R185). -/
def modeHasValue : Mode → Bool
  | .acc | .imm | .zp | .zpx | .zpy | .abs | .absx | .absy | .indx | .indy => true
  | .imp | .ind | .rel => false

/-- The second address of the Indirect pointer: the next byte of the same page (R182). -/
def samePageNext (p : Addr) : Addr := word (lowByte p + 1) (highByte p)

/-- `op.addr`, with the pointer reads of the mode, low byte first (R176 to R184). A mode without an address faults (R172). -/
def operandAddr (o : Operand) (s : State) : Res Addr :=
  match o with
  | .imp => raise (.operandCapability .imp .address) s
  | .acc => raise (.operandCapability .acc .address) s
  | .imm _ => raise (.operandCapability .imm .address) s
  | .zp z => .ok (zext16 z) s
  | .zpx z => .ok (zext16 (z + s.cpu.x)) s
  | .zpy z => .ok (zext16 (z + s.cpu.y)) s
  | .abs a => .ok a s
  | .absx a => .ok (a + zext16 s.cpu.x) s
  | .absy a => .ok (a + zext16 s.cpu.y) s
  | .ind p => (busRead p s).bind fun lo s => (busRead (samePageNext p) s).bind fun hi s => .ok (word lo hi) s
  | .indx z =>
    let p := z + s.cpu.x
    (busRead (zext16 p) s).bind fun lo s => (busRead (zext16 (p + 1)) s).bind fun hi s => .ok (word lo hi) s
  | .indy z =>
    (busRead (zext16 z) s).bind fun lo s =>
      (busRead (zext16 (z + 1)) s).bind fun hi s => .ok (word lo hi + zext16 s.cpu.y) s
  | .rel _ => raise (.operandCapability .rel .address) s

/-- `op.value` (R173 to R185): A, the immediate byte, or one read of `op.addr`. A mode without a value faults (R172). -/
def operandValue (o : Operand) (s : State) : Res Byte :=
  match o with
  | .imp => raise (.operandCapability .imp .value) s
  | .acc => .ok s.cpu.a s
  | .imm v => .ok v s
  | .ind _ => raise (.operandCapability .ind .value) s
  | .rel _ => raise (.operandCapability .rel .value) s
  | .zp z => (operandAddr (.zp z) s).bind busRead
  | .zpx z => (operandAddr (.zpx z) s).bind busRead
  | .zpy z => (operandAddr (.zpy z) s).bind busRead
  | .abs a => (operandAddr (.abs a) s).bind busRead
  | .absx a => (operandAddr (.absx a) s).bind busRead
  | .absy a => (operandAddr (.absy a) s).bind busRead
  | .indx z => (operandAddr (.indx z) s).bind busRead
  | .indy z => (operandAddr (.indy z) s).bind busRead

/-- `op.target` (R185): PC holds PCn while the instruction executes. A mode without a target faults (R172, log entry 18). -/
def operandTarget (o : Operand) (s : State) : Res Addr :=
  match o with
  | .rel r => .ok (s.cpu.pc + sext16 r) s
  | other => raise (.operandCapability other.mode .value) s

/-- Read the operand once, change it, write it back once: to A in Accumulator mode, else to `op.addr`, which is computed once
(R171, R174). `f` gives the byte to write; `k` goes on after the write with the byte read. -/
def readModifyWrite (o : Operand) (f : Byte → Byte) (k : Byte → State → Res Unit) (s : State) : Res Unit :=
  match o with
  | .acc => k s.cpu.a (s.setA (f s.cpu.a))
  | other =>
    (operandAddr other s).bind fun a s =>
      (busRead a s).bind fun m s => (busWrite a (f m) s).bind fun _ s => k m s

end Sys2Proof.Machine
end

