-- ==== Sys2Proof/Machine/ArithLogic.lean ====
section
/-! DEFINITION. The arithmetic, logic, compare, bit-test, increment and decrement instructions (spec 42_arith_logic.md R230
to R245). The D flag has no effect on any of them. -/

namespace Sys2Proof.Machine

/-! ## Shared operations -/

/-- ADC (R230), and SBC (R231) with the operand complemented: the same datapath. -/
def addToA (m : Byte) (s : State) : Res Unit :=
  .ok () ((s.setA (addResult s.cpu.a m s.cpu.p.c)).setP (flagsAdd s.cpu.a m s.cpu.p))

/-- R230. -/
def adc (o : Operand) (s : State) : Res Unit := (operandValue o s).bind addToA

/-- R231. -/
def sbc (o : Operand) (s : State) : Res Unit := (operandValue o s).bind fun m s => addToA (m ^^^ 0xFF) s

/-- A bitwise operation on A (R232 to R234). -/
def logic (f : Byte → Byte → Byte) (o : Operand) (s : State) : Res Unit :=
  (operandValue o s).bind fun m s => .ok () ((s.setA (f s.cpu.a m)).setZN (f s.cpu.a m))

/-- Compare a register with the operand (R235): only C, Z and N are written. -/
def compare (reg : State → Byte) (o : Operand) (s : State) : Res Unit :=
  (operandValue o s).bind fun m s => .ok () (s.setP (flagsCompare (reg s) m s.cpu.p))

/-- BIT (R239): only Z, N and V are written. -/
def bitTest (o : Operand) (s : State) : Res Unit :=
  (operandValue o s).bind fun m s => .ok () (s.setP (flagsBitTest s.cpu.a m s.cpu.p))

/-- INC and DEC (R240, R241): one read, one write, then Z and N from the byte written (log entry 15). -/
def stepMemory (f : Byte → Byte) (o : Operand) (s : State) : Res Unit :=
  readModifyWrite o f (fun m s => .ok () (s.setZN (f m))) s

/-- INX, INY, DEX and DEY (R242 to R245). -/
def stepRegister (set : State → Byte → State) (v : Byte) (s : State) : Res Unit := .ok () ((set s v).setZN v)

/-! ## One meaning per row of the opcode table -/

/-- ADC #: R230, R175. -/
def execAdcImm (v : Byte) (s : State) : Host.Outcome State Fault Refusal := finish (adc (.imm v) s)

/-- ADC zp: R230, R176. -/
def execAdcZp (z : Byte) (s : State) : Host.Outcome State Fault Refusal := finish (adc (.zp z) s)

/-- ADC zp,X: R230, R177. -/
def execAdcZpx (z : Byte) (s : State) : Host.Outcome State Fault Refusal := finish (adc (.zpx z) s)

/-- ADC abs: R230, R179. -/
def execAdcAbs (a : Addr) (s : State) : Host.Outcome State Fault Refusal := finish (adc (.abs a) s)

/-- ADC abs,X: R230, R180. -/
def execAdcAbsx (a : Addr) (s : State) : Host.Outcome State Fault Refusal := finish (adc (.absx a) s)

/-- ADC abs,Y: R230, R181. -/
def execAdcAbsy (a : Addr) (s : State) : Host.Outcome State Fault Refusal := finish (adc (.absy a) s)

/-- ADC (zp,X): R230, R183. -/
def execAdcIndx (z : Byte) (s : State) : Host.Outcome State Fault Refusal := finish (adc (.indx z) s)

/-- ADC (zp),Y: R230, R184. -/
def execAdcIndy (z : Byte) (s : State) : Host.Outcome State Fault Refusal := finish (adc (.indy z) s)

/-- SBC #: R231, R175. -/
def execSbcImm (v : Byte) (s : State) : Host.Outcome State Fault Refusal := finish (sbc (.imm v) s)

/-- SBC zp: R231, R176. -/
def execSbcZp (z : Byte) (s : State) : Host.Outcome State Fault Refusal := finish (sbc (.zp z) s)

/-- SBC zp,X: R231, R177. -/
def execSbcZpx (z : Byte) (s : State) : Host.Outcome State Fault Refusal := finish (sbc (.zpx z) s)

/-- SBC abs: R231, R179. -/
def execSbcAbs (a : Addr) (s : State) : Host.Outcome State Fault Refusal := finish (sbc (.abs a) s)

/-- SBC abs,X: R231, R180. -/
def execSbcAbsx (a : Addr) (s : State) : Host.Outcome State Fault Refusal := finish (sbc (.absx a) s)

/-- SBC abs,Y: R231, R181. -/
def execSbcAbsy (a : Addr) (s : State) : Host.Outcome State Fault Refusal := finish (sbc (.absy a) s)

/-- SBC (zp,X): R231, R183. -/
def execSbcIndx (z : Byte) (s : State) : Host.Outcome State Fault Refusal := finish (sbc (.indx z) s)

/-- SBC (zp),Y: R231, R184. -/
def execSbcIndy (z : Byte) (s : State) : Host.Outcome State Fault Refusal := finish (sbc (.indy z) s)

/-- AND #: R232, R175. -/
def execAndImm (v : Byte) (s : State) : Host.Outcome State Fault Refusal := finish (logic (fun a m => a &&& m) (.imm v) s)

/-- AND zp: R232, R176. -/
def execAndZp (z : Byte) (s : State) : Host.Outcome State Fault Refusal := finish (logic (fun a m => a &&& m) (.zp z) s)

/-- AND zp,X: R232, R177. -/
def execAndZpx (z : Byte) (s : State) : Host.Outcome State Fault Refusal := finish (logic (fun a m => a &&& m) (.zpx z) s)

/-- AND abs: R232, R179. -/
def execAndAbs (a : Addr) (s : State) : Host.Outcome State Fault Refusal := finish (logic (fun a m => a &&& m) (.abs a) s)

/-- AND abs,X: R232, R180. -/
def execAndAbsx (a : Addr) (s : State) : Host.Outcome State Fault Refusal := finish (logic (fun a m => a &&& m) (.absx a) s)

/-- AND abs,Y: R232, R181. -/
def execAndAbsy (a : Addr) (s : State) : Host.Outcome State Fault Refusal := finish (logic (fun a m => a &&& m) (.absy a) s)

/-- AND (zp,X): R232, R183. -/
def execAndIndx (z : Byte) (s : State) : Host.Outcome State Fault Refusal := finish (logic (fun a m => a &&& m) (.indx z) s)

/-- AND (zp),Y: R232, R184. -/
def execAndIndy (z : Byte) (s : State) : Host.Outcome State Fault Refusal := finish (logic (fun a m => a &&& m) (.indy z) s)

/-- ORA #: R233, R175. -/
def execOraImm (v : Byte) (s : State) : Host.Outcome State Fault Refusal := finish (logic (fun a m => a ||| m) (.imm v) s)

/-- ORA zp: R233, R176. -/
def execOraZp (z : Byte) (s : State) : Host.Outcome State Fault Refusal := finish (logic (fun a m => a ||| m) (.zp z) s)

/-- ORA zp,X: R233, R177. -/
def execOraZpx (z : Byte) (s : State) : Host.Outcome State Fault Refusal := finish (logic (fun a m => a ||| m) (.zpx z) s)

/-- ORA abs: R233, R179. -/
def execOraAbs (a : Addr) (s : State) : Host.Outcome State Fault Refusal := finish (logic (fun a m => a ||| m) (.abs a) s)

/-- ORA abs,X: R233, R180. -/
def execOraAbsx (a : Addr) (s : State) : Host.Outcome State Fault Refusal := finish (logic (fun a m => a ||| m) (.absx a) s)

/-- ORA abs,Y: R233, R181. -/
def execOraAbsy (a : Addr) (s : State) : Host.Outcome State Fault Refusal := finish (logic (fun a m => a ||| m) (.absy a) s)

/-- ORA (zp,X): R233, R183. -/
def execOraIndx (z : Byte) (s : State) : Host.Outcome State Fault Refusal := finish (logic (fun a m => a ||| m) (.indx z) s)

/-- ORA (zp),Y: R233, R184. -/
def execOraIndy (z : Byte) (s : State) : Host.Outcome State Fault Refusal := finish (logic (fun a m => a ||| m) (.indy z) s)

/-- EOR #: R234, R175. -/
def execEorImm (v : Byte) (s : State) : Host.Outcome State Fault Refusal := finish (logic (fun a m => a ^^^ m) (.imm v) s)

/-- EOR zp: R234, R176. -/
def execEorZp (z : Byte) (s : State) : Host.Outcome State Fault Refusal := finish (logic (fun a m => a ^^^ m) (.zp z) s)

/-- EOR zp,X: R234, R177. -/
def execEorZpx (z : Byte) (s : State) : Host.Outcome State Fault Refusal := finish (logic (fun a m => a ^^^ m) (.zpx z) s)

/-- EOR abs: R234, R179. -/
def execEorAbs (a : Addr) (s : State) : Host.Outcome State Fault Refusal := finish (logic (fun a m => a ^^^ m) (.abs a) s)

/-- EOR abs,X: R234, R180. -/
def execEorAbsx (a : Addr) (s : State) : Host.Outcome State Fault Refusal := finish (logic (fun a m => a ^^^ m) (.absx a) s)

/-- EOR abs,Y: R234, R181. -/
def execEorAbsy (a : Addr) (s : State) : Host.Outcome State Fault Refusal := finish (logic (fun a m => a ^^^ m) (.absy a) s)

/-- EOR (zp,X): R234, R183. -/
def execEorIndx (z : Byte) (s : State) : Host.Outcome State Fault Refusal := finish (logic (fun a m => a ^^^ m) (.indx z) s)

/-- EOR (zp),Y: R234, R184. -/
def execEorIndy (z : Byte) (s : State) : Host.Outcome State Fault Refusal := finish (logic (fun a m => a ^^^ m) (.indy z) s)

/-- CMP #: R236, R175. -/
def execCmpImm (v : Byte) (s : State) : Host.Outcome State Fault Refusal := finish (compare (fun s => s.cpu.a) (.imm v) s)

/-- CMP zp: R236, R176. -/
def execCmpZp (z : Byte) (s : State) : Host.Outcome State Fault Refusal := finish (compare (fun s => s.cpu.a) (.zp z) s)

/-- CMP zp,X: R236, R177. -/
def execCmpZpx (z : Byte) (s : State) : Host.Outcome State Fault Refusal := finish (compare (fun s => s.cpu.a) (.zpx z) s)

/-- CMP abs: R236, R179. -/
def execCmpAbs (a : Addr) (s : State) : Host.Outcome State Fault Refusal := finish (compare (fun s => s.cpu.a) (.abs a) s)

/-- CMP abs,X: R236, R180. -/
def execCmpAbsx (a : Addr) (s : State) : Host.Outcome State Fault Refusal := finish (compare (fun s => s.cpu.a) (.absx a) s)

/-- CMP abs,Y: R236, R181. -/
def execCmpAbsy (a : Addr) (s : State) : Host.Outcome State Fault Refusal := finish (compare (fun s => s.cpu.a) (.absy a) s)

/-- CMP (zp,X): R236, R183. -/
def execCmpIndx (z : Byte) (s : State) : Host.Outcome State Fault Refusal := finish (compare (fun s => s.cpu.a) (.indx z) s)

/-- CMP (zp),Y: R236, R184. -/
def execCmpIndy (z : Byte) (s : State) : Host.Outcome State Fault Refusal := finish (compare (fun s => s.cpu.a) (.indy z) s)

/-- CPX #: R237, R175. -/
def execCpxImm (v : Byte) (s : State) : Host.Outcome State Fault Refusal := finish (compare (fun s => s.cpu.x) (.imm v) s)

/-- CPX zp: R237, R176. -/
def execCpxZp (z : Byte) (s : State) : Host.Outcome State Fault Refusal := finish (compare (fun s => s.cpu.x) (.zp z) s)

/-- CPX abs: R237, R179. -/
def execCpxAbs (a : Addr) (s : State) : Host.Outcome State Fault Refusal := finish (compare (fun s => s.cpu.x) (.abs a) s)

/-- CPY #: R238, R175. -/
def execCpyImm (v : Byte) (s : State) : Host.Outcome State Fault Refusal := finish (compare (fun s => s.cpu.y) (.imm v) s)

/-- CPY zp: R238, R176. -/
def execCpyZp (z : Byte) (s : State) : Host.Outcome State Fault Refusal := finish (compare (fun s => s.cpu.y) (.zp z) s)

/-- CPY abs: R238, R179. -/
def execCpyAbs (a : Addr) (s : State) : Host.Outcome State Fault Refusal := finish (compare (fun s => s.cpu.y) (.abs a) s)

/-- BIT zp: R239, R176. -/
def execBitZp (z : Byte) (s : State) : Host.Outcome State Fault Refusal := finish (bitTest (.zp z) s)

/-- BIT abs: R239, R179. -/
def execBitAbs (a : Addr) (s : State) : Host.Outcome State Fault Refusal := finish (bitTest (.abs a) s)

/-- INC zp: R240, R176. -/
def execIncZp (z : Byte) (s : State) : Host.Outcome State Fault Refusal := finish (stepMemory (fun m => m + 1) (.zp z) s)

/-- INC zp,X: R240, R177. -/
def execIncZpx (z : Byte) (s : State) : Host.Outcome State Fault Refusal := finish (stepMemory (fun m => m + 1) (.zpx z) s)

/-- INC abs: R240, R179. -/
def execIncAbs (a : Addr) (s : State) : Host.Outcome State Fault Refusal := finish (stepMemory (fun m => m + 1) (.abs a) s)

/-- INC abs,X: R240, R180. -/
def execIncAbsx (a : Addr) (s : State) : Host.Outcome State Fault Refusal := finish (stepMemory (fun m => m + 1) (.absx a) s)

/-- DEC zp: R241, R176. -/
def execDecZp (z : Byte) (s : State) : Host.Outcome State Fault Refusal := finish (stepMemory (fun m => m - 1) (.zp z) s)

/-- DEC zp,X: R241, R177. -/
def execDecZpx (z : Byte) (s : State) : Host.Outcome State Fault Refusal := finish (stepMemory (fun m => m - 1) (.zpx z) s)

/-- DEC abs: R241, R179. -/
def execDecAbs (a : Addr) (s : State) : Host.Outcome State Fault Refusal := finish (stepMemory (fun m => m - 1) (.abs a) s)

/-- DEC abs,X: R241, R180. -/
def execDecAbsx (a : Addr) (s : State) : Host.Outcome State Fault Refusal := finish (stepMemory (fun m => m - 1) (.absx a) s)

/-- INX: R242, R173. -/
def execInx (s : State) : Host.Outcome State Fault Refusal := finish (stepRegister State.setX (s.cpu.x + 1) s)

/-- INY: R243, R173. -/
def execIny (s : State) : Host.Outcome State Fault Refusal := finish (stepRegister State.setY (s.cpu.y + 1) s)

/-- DEX: R244, R173. -/
def execDex (s : State) : Host.Outcome State Fault Refusal := finish (stepRegister State.setX (s.cpu.x - 1) s)

/-- DEY: R245, R173. -/
def execDey (s : State) : Host.Outcome State Fault Refusal := finish (stepRegister State.setY (s.cpu.y - 1) s)

end Sys2Proof.Machine
end

