-- ==== Sys2Proof/Machine/ControlFlow.lean ====
section
/-! DEFINITION. Branches, jumps, subroutine calls, BRK and RTI (spec 44_control_flow.md R290 to R303). PC holds PCn, the
address of the next instruction, while one of them executes. -/

namespace Sys2Proof.Machine

/-! ## Shared operations -/

/-- A conditional branch (R290). -/
def branch (cond : Bool) (o : Operand) (s : State) : Res Unit :=
  if cond then (operandTarget o s).bind fun target s => .ok () (s.setPc target) else .ok () s

/-- JMP (R299). -/
def jump (o : Operand) (s : State) : Res Unit := (operandAddr o s).bind fun a s => .ok () (s.setPc a)

/-- JSR (R300): push the address of its own last byte, then jump. -/
def jumpSubroutine (o : Operand) (s : State) : Res Unit :=
  (push16 (s.cpu.pc - 1) s).bind fun _ s => (operandAddr o s).bind fun a s => .ok () (s.setPc a)

/-- RTS (R301). -/
def returnSubroutine (s : State) : Res Unit := (pull16 s).bind fun w s => .ok () (s.setPc (w + 1))

/-! ## One meaning per row of the opcode table -/

/-- BCC rel: R291, R185. -/
def execBcc (r : Byte) (s : State) : Host.Outcome State Fault Refusal := finish (branch (!s.cpu.p.c) (.rel r) s)

/-- BCS rel: R292, R185. -/
def execBcs (r : Byte) (s : State) : Host.Outcome State Fault Refusal := finish (branch s.cpu.p.c (.rel r) s)

/-- BEQ rel: R293, R185. -/
def execBeq (r : Byte) (s : State) : Host.Outcome State Fault Refusal := finish (branch s.cpu.p.z (.rel r) s)

/-- BNE rel: R294, R185. -/
def execBne (r : Byte) (s : State) : Host.Outcome State Fault Refusal := finish (branch (!s.cpu.p.z) (.rel r) s)

/-- BMI rel: R295, R185. -/
def execBmi (r : Byte) (s : State) : Host.Outcome State Fault Refusal := finish (branch s.cpu.p.n (.rel r) s)

/-- BPL rel: R296, R185. -/
def execBpl (r : Byte) (s : State) : Host.Outcome State Fault Refusal := finish (branch (!s.cpu.p.n) (.rel r) s)

/-- BVC rel: R297, R185. -/
def execBvc (r : Byte) (s : State) : Host.Outcome State Fault Refusal := finish (branch (!s.cpu.p.v) (.rel r) s)

/-- BVS rel: R298, R185. -/
def execBvs (r : Byte) (s : State) : Host.Outcome State Fault Refusal := finish (branch s.cpu.p.v (.rel r) s)

/-- JMP abs: R299, R179. -/
def execJmpAbs (a : Addr) (s : State) : Host.Outcome State Fault Refusal := finish (jump (.abs a) s)

/-- JMP (abs): R299, R182. -/
def execJmpInd (a : Addr) (s : State) : Host.Outcome State Fault Refusal := finish (jump (.ind a) s)

/-- JSR abs: R300, R179. -/
def execJsr (a : Addr) (s : State) : Host.Outcome State Fault Refusal := finish (jumpSubroutine (.abs a) s)

/-- RTS: R301, R173. -/
def execRts (s : State) : Host.Outcome State Fault Refusal := finish (returnSubroutine s)

/-- BRK: R302, R173. -/
def execBrk (s : State) : Host.Outcome State Fault Refusal := finish (enterInterrupt (s.cpu.pc + 1) true Config.brkVector s)

/-- RTI: R303, R173. -/
def execRti (s : State) : Host.Outcome State Fault Refusal := finish (returnFromInterrupt s)

end Sys2Proof.Machine
end

