-- ==== Sys2Proof/Machine/LoadStore.lean ====
section
/-! DEFINITION. The load, store and transfer instructions (spec 41_load_store.md R200 to R211). -/

namespace Sys2Proof.Machine

/-! ## Shared operations -/

/-- A load (R200 to R202): the operand's value goes to a register, and Z and N are from it. -/
def load (set : State → Byte → State) (o : Operand) (s : State) : Res Unit :=
  (operandValue o s).bind fun v s => .ok () ((set s v).setZN v)

/-- A store (R203 to R205): the operand's address is never read. -/
def store (v : Byte) (o : Operand) (s : State) : Res Unit :=
  (operandAddr o s).bind fun a s => busWrite a v s

/-- A transfer that sets Z and N from the byte moved (R206 to R210). -/
def transfer (set : State → Byte → State) (v : Byte) (s : State) : Res Unit := .ok () ((set s v).setZN v)

/-! ## One meaning per row of the opcode table -/

/-- LDA #: R200, R175. -/
def execLdaImm (v : Byte) (s : State) : Host.Outcome State Fault Refusal := finish (load State.setA (.imm v) s)

/-- LDA zp: R200, R176. -/
def execLdaZp (z : Byte) (s : State) : Host.Outcome State Fault Refusal := finish (load State.setA (.zp z) s)

/-- LDA zp,X: R200, R177. -/
def execLdaZpx (z : Byte) (s : State) : Host.Outcome State Fault Refusal := finish (load State.setA (.zpx z) s)

/-- LDA abs: R200, R179. -/
def execLdaAbs (a : Addr) (s : State) : Host.Outcome State Fault Refusal := finish (load State.setA (.abs a) s)

/-- LDA abs,X: R200, R180. -/
def execLdaAbsx (a : Addr) (s : State) : Host.Outcome State Fault Refusal := finish (load State.setA (.absx a) s)

/-- LDA abs,Y: R200, R181. -/
def execLdaAbsy (a : Addr) (s : State) : Host.Outcome State Fault Refusal := finish (load State.setA (.absy a) s)

/-- LDA (zp,X): R200, R183. -/
def execLdaIndx (z : Byte) (s : State) : Host.Outcome State Fault Refusal := finish (load State.setA (.indx z) s)

/-- LDA (zp),Y: R200, R184. -/
def execLdaIndy (z : Byte) (s : State) : Host.Outcome State Fault Refusal := finish (load State.setA (.indy z) s)

/-- LDX #: R201, R175. -/
def execLdxImm (v : Byte) (s : State) : Host.Outcome State Fault Refusal := finish (load State.setX (.imm v) s)

/-- LDX zp: R201, R176. -/
def execLdxZp (z : Byte) (s : State) : Host.Outcome State Fault Refusal := finish (load State.setX (.zp z) s)

/-- LDX zp,Y: R201, R178. -/
def execLdxZpy (z : Byte) (s : State) : Host.Outcome State Fault Refusal := finish (load State.setX (.zpy z) s)

/-- LDX abs: R201, R179. -/
def execLdxAbs (a : Addr) (s : State) : Host.Outcome State Fault Refusal := finish (load State.setX (.abs a) s)

/-- LDX abs,Y: R201, R181. -/
def execLdxAbsy (a : Addr) (s : State) : Host.Outcome State Fault Refusal := finish (load State.setX (.absy a) s)

/-- LDY #: R202, R175. -/
def execLdyImm (v : Byte) (s : State) : Host.Outcome State Fault Refusal := finish (load State.setY (.imm v) s)

/-- LDY zp: R202, R176. -/
def execLdyZp (z : Byte) (s : State) : Host.Outcome State Fault Refusal := finish (load State.setY (.zp z) s)

/-- LDY zp,X: R202, R177. -/
def execLdyZpx (z : Byte) (s : State) : Host.Outcome State Fault Refusal := finish (load State.setY (.zpx z) s)

/-- LDY abs: R202, R179. -/
def execLdyAbs (a : Addr) (s : State) : Host.Outcome State Fault Refusal := finish (load State.setY (.abs a) s)

/-- LDY abs,X: R202, R180. -/
def execLdyAbsx (a : Addr) (s : State) : Host.Outcome State Fault Refusal := finish (load State.setY (.absx a) s)

/-- STA zp: R203, R176. -/
def execStaZp (z : Byte) (s : State) : Host.Outcome State Fault Refusal := finish (store s.cpu.a (.zp z) s)

/-- STA zp,X: R203, R177. -/
def execStaZpx (z : Byte) (s : State) : Host.Outcome State Fault Refusal := finish (store s.cpu.a (.zpx z) s)

/-- STA abs: R203, R179. -/
def execStaAbs (a : Addr) (s : State) : Host.Outcome State Fault Refusal := finish (store s.cpu.a (.abs a) s)

/-- STA abs,X: R203, R180. -/
def execStaAbsx (a : Addr) (s : State) : Host.Outcome State Fault Refusal := finish (store s.cpu.a (.absx a) s)

/-- STA abs,Y: R203, R181. -/
def execStaAbsy (a : Addr) (s : State) : Host.Outcome State Fault Refusal := finish (store s.cpu.a (.absy a) s)

/-- STA (zp,X): R203, R183. -/
def execStaIndx (z : Byte) (s : State) : Host.Outcome State Fault Refusal := finish (store s.cpu.a (.indx z) s)

/-- STA (zp),Y: R203, R184. -/
def execStaIndy (z : Byte) (s : State) : Host.Outcome State Fault Refusal := finish (store s.cpu.a (.indy z) s)

/-- STX zp: R204, R176. -/
def execStxZp (z : Byte) (s : State) : Host.Outcome State Fault Refusal := finish (store s.cpu.x (.zp z) s)

/-- STX zp,Y: R204, R178. -/
def execStxZpy (z : Byte) (s : State) : Host.Outcome State Fault Refusal := finish (store s.cpu.x (.zpy z) s)

/-- STX abs: R204, R179. -/
def execStxAbs (a : Addr) (s : State) : Host.Outcome State Fault Refusal := finish (store s.cpu.x (.abs a) s)

/-- STY zp: R205, R176. -/
def execStyZp (z : Byte) (s : State) : Host.Outcome State Fault Refusal := finish (store s.cpu.y (.zp z) s)

/-- STY zp,X: R205, R177. -/
def execStyZpx (z : Byte) (s : State) : Host.Outcome State Fault Refusal := finish (store s.cpu.y (.zpx z) s)

/-- STY abs: R205, R179. -/
def execStyAbs (a : Addr) (s : State) : Host.Outcome State Fault Refusal := finish (store s.cpu.y (.abs a) s)

/-- TAX: R206, R173. -/
def execTax (s : State) : Host.Outcome State Fault Refusal := finish (transfer State.setX s.cpu.a s)

/-- TAY: R207, R173. -/
def execTay (s : State) : Host.Outcome State Fault Refusal := finish (transfer State.setY s.cpu.a s)

/-- TXA: R208, R173. -/
def execTxa (s : State) : Host.Outcome State Fault Refusal := finish (transfer State.setA s.cpu.x s)

/-- TYA: R209, R173. -/
def execTya (s : State) : Host.Outcome State Fault Refusal := finish (transfer State.setA s.cpu.y s)

/-- TSX: R210, R173. -/
def execTsx (s : State) : Host.Outcome State Fault Refusal := finish (transfer State.setX s.cpu.sp s)

/-- TXS: R211, R173. -/
def execTxs (s : State) : Host.Outcome State Fault Refusal := finish (.ok () (s.setSp s.cpu.x))

end Sys2Proof.Machine
end

