-- ==== Sys2Proof/Machine/ShiftRotate.lean ====
section
/-! DEFINITION. The shifts and rotates (spec 43_shift_rotate.md R270 to R274). -/

namespace Sys2Proof.Machine

/-! ## Shared operations -/

/-- The common semantics of the four (R270): read, write back, then C from the bit shifted away and Z and N from the result. -/
def shift (f : Byte → Bool → Byte × Bool) (o : Operand) (s : State) : Res Unit :=
  readModifyWrite o (fun m => (f m s.cpu.p.c).1)
    (fun m t => .ok () (t.setP (flagsShift (f m s.cpu.p.c).1 (f m s.cpu.p.c).2 t.cpu.p))) s

/-! ## One meaning per row of the opcode table -/

/-- ASL A: R271, R174. -/
def execAslAcc (s : State) : Host.Outcome State Fault Refusal := finish (shift shiftAsl .acc s)

/-- ASL zp: R271, R176. -/
def execAslZp (z : Byte) (s : State) : Host.Outcome State Fault Refusal := finish (shift shiftAsl (.zp z) s)

/-- ASL zp,X: R271, R177. -/
def execAslZpx (z : Byte) (s : State) : Host.Outcome State Fault Refusal := finish (shift shiftAsl (.zpx z) s)

/-- ASL abs: R271, R179. -/
def execAslAbs (a : Addr) (s : State) : Host.Outcome State Fault Refusal := finish (shift shiftAsl (.abs a) s)

/-- ASL abs,X: R271, R180. -/
def execAslAbsx (a : Addr) (s : State) : Host.Outcome State Fault Refusal := finish (shift shiftAsl (.absx a) s)

/-- LSR A: R272, R174. -/
def execLsrAcc (s : State) : Host.Outcome State Fault Refusal := finish (shift shiftLsr .acc s)

/-- LSR zp: R272, R176. -/
def execLsrZp (z : Byte) (s : State) : Host.Outcome State Fault Refusal := finish (shift shiftLsr (.zp z) s)

/-- LSR zp,X: R272, R177. -/
def execLsrZpx (z : Byte) (s : State) : Host.Outcome State Fault Refusal := finish (shift shiftLsr (.zpx z) s)

/-- LSR abs: R272, R179. -/
def execLsrAbs (a : Addr) (s : State) : Host.Outcome State Fault Refusal := finish (shift shiftLsr (.abs a) s)

/-- LSR abs,X: R272, R180. -/
def execLsrAbsx (a : Addr) (s : State) : Host.Outcome State Fault Refusal := finish (shift shiftLsr (.absx a) s)

/-- ROL A: R273, R174. -/
def execRolAcc (s : State) : Host.Outcome State Fault Refusal := finish (shift shiftRol .acc s)

/-- ROL zp: R273, R176. -/
def execRolZp (z : Byte) (s : State) : Host.Outcome State Fault Refusal := finish (shift shiftRol (.zp z) s)

/-- ROL zp,X: R273, R177. -/
def execRolZpx (z : Byte) (s : State) : Host.Outcome State Fault Refusal := finish (shift shiftRol (.zpx z) s)

/-- ROL abs: R273, R179. -/
def execRolAbs (a : Addr) (s : State) : Host.Outcome State Fault Refusal := finish (shift shiftRol (.abs a) s)

/-- ROL abs,X: R273, R180. -/
def execRolAbsx (a : Addr) (s : State) : Host.Outcome State Fault Refusal := finish (shift shiftRol (.absx a) s)

/-- ROR A: R274, R174. -/
def execRorAcc (s : State) : Host.Outcome State Fault Refusal := finish (shift shiftRor .acc s)

/-- ROR zp: R274, R176. -/
def execRorZp (z : Byte) (s : State) : Host.Outcome State Fault Refusal := finish (shift shiftRor (.zp z) s)

/-- ROR zp,X: R274, R177. -/
def execRorZpx (z : Byte) (s : State) : Host.Outcome State Fault Refusal := finish (shift shiftRor (.zpx z) s)

/-- ROR abs: R274, R179. -/
def execRorAbs (a : Addr) (s : State) : Host.Outcome State Fault Refusal := finish (shift shiftRor (.abs a) s)

/-- ROR abs,X: R274, R180. -/
def execRorAbsx (a : Addr) (s : State) : Host.Outcome State Fault Refusal := finish (shift shiftRor (.absx a) s)

end Sys2Proof.Machine
end

