-- ==== Sys2Proof/Machine/StackStatus.lean ====
section
/-! DEFINITION. The stack, status-flag and no-operation instructions (spec 45_stack_status.md R320 to R331). -/

namespace Sys2Proof.Machine

/-! ## Shared operations -/

/-- PLA (R322). -/
def pullA (s : State) : Res Unit := (pull s).bind fun v s => .ok () ((s.setA v).setZN v)

/-- PLP (R323). -/
def pullP (s : State) : Res Unit := (pull s).bind fun v s => .ok () (s.setP (unpack v))

/-! ## One meaning per row of the opcode table -/

/-- PHA: R320, R173. -/
def execPha (s : State) : Host.Outcome State Fault Refusal := finish (push s.cpu.a s)

/-- PHP: R321, R173. -/
def execPhp (s : State) : Host.Outcome State Fault Refusal := finish (push (pack s.cpu.p true) s)

/-- PLA: R322, R173. -/
def execPla (s : State) : Host.Outcome State Fault Refusal := finish (pullA s)

/-- PLP: R323, R173. -/
def execPlp (s : State) : Host.Outcome State Fault Refusal := finish (pullP s)

/-- CLC: R324, R173. -/
def execClc (s : State) : Host.Outcome State Fault Refusal := finish (.ok () (s.setP { s.cpu.p with c := false }))

/-- CLD: R325, R173. -/
def execCld (s : State) : Host.Outcome State Fault Refusal := finish (.ok () (s.setP { s.cpu.p with d := false }))

/-- CLI: R326, R173. -/
def execCli (s : State) : Host.Outcome State Fault Refusal := finish (.ok () (s.setP { s.cpu.p with i := false }))

/-- CLV: R327, R173. -/
def execClv (s : State) : Host.Outcome State Fault Refusal := finish (.ok () (s.setP { s.cpu.p with v := false }))

/-- SEC: R328, R173. -/
def execSec (s : State) : Host.Outcome State Fault Refusal := finish (.ok () (s.setP { s.cpu.p with c := true }))

/-- SED: R329, R173. -/
def execSed (s : State) : Host.Outcome State Fault Refusal := finish (.ok () (s.setP { s.cpu.p with d := true }))

/-- SEI: R330, R173. -/
def execSei (s : State) : Host.Outcome State Fault Refusal := finish (.ok () (s.setP { s.cpu.p with i := true }))

/-- NOP: R331, R173. -/
def execNop (s : State) : Host.Outcome State Fault Refusal := finish (.ok () s)

end Sys2Proof.Machine
end

