-- ==== Sys2Proof/Machine/Compositor.lean ====
section
/-! DEFINITION. The renderer (spec 48_compositor.md): pattern and colour lookup, plotting with zoom and clipping, the four passes,
and the hand-over to the sink. -/

namespace Sys2Proof.Machine

/-- The pixel in column `x` of row `y` of the framebuffer: what was last plotted there, else its reset draw (R432). -/
def fbGet (fb : Framebuffer) (x y : Nat) : Pixel :=
  ((sparseGet fb y).bind fun row => sparseGet row x).getD (Config.resetPixel x y)

/-- Set one framebuffer pixel. -/
def fbSet (fb : Framebuffer) (x y : Nat) (c : Pixel) : Framebuffer :=
  sparseSet fb y (sparseSet ((sparseGet fb y).getD []) x c)

/-- A framebuffer as plain data has one form: rising rows, none empty, each with rising columns. -/
abbrev fbWf (fb : Framebuffer) : Prop := sparseSorted fb ∧ ∀ row ∈ fb, row.2 ≠ [] ∧ sparseSorted row.2

/-- Set the columns `x`, `x + 1`, ..., `x + n - 1` of one row. -/
def fbSetRun (c : Pixel) (y : Nat) : Nat → Nat → Framebuffer → Framebuffer
  | 0, _, fb => fb
  | n + 1, x, fb => fbSetRun c y n (x + 1) (fbSet fb x y c)

/-- Set a block of `w` columns and `h` rows whose top-left pixel is in column `x` of row `y`. -/
def fbSetBlock (c : Pixel) (x w : Nat) : Nat → Nat → Framebuffer → Framebuffer
  | 0, _, fb => fb
  | h + 1, y, fb => fbSetBlock c x w h (y + 1) (fbSetRun c y w x fb)

/-- A logical pixel lies on the screen (R427). -/
def onScreen (px py : Int) : Bool := decide (0 ≤ px ∧ px < 256 ∧ 0 ≤ py ∧ py < 240)

/-- `Plot` (R427): a logical pixel on the screen becomes a zoom by zoom block; off the screen nothing is written. -/
def plot (zoom : Nat) (px py : Int) (c : Pixel) (fb : Framebuffer) : Framebuffer :=
  if onScreen px py then fbSetBlock c (px.toNat * zoom) zoom zoom (py.toNat * zoom) fb else fb

/-- `PatternValue` (R424): two bit planes, bit 7 leftmost; `sx` and `sy` are 0..7. -/
def patternValue (s : State) (pat : Addr) (sx sy : Nat) : Nat :=
  flag (bit (ppuMemRead (pat + BitVec.ofNat 16 sy) s) (7 - sx)) +
    2 * flag (bit (ppuMemRead (pat + 8 + BitVec.ofNat 16 sy) s) (7 - sx))

/-- `Colour` (R425, R426): the palette byte through the read adjustment, its low 6 bits through P_SYSTEM_PALETTE. -/
def colour (s : State) (palBase : Addr) (v : Nat) : Pixel :=
  Config.systemPalette ((ppuMemRead (palBase + BitVec.ofNat 16 v) s).setWidth 6)

/-- The pattern column or row behind a pixel of an item, flipped or not (R423). -/
def flipped (flip : Bool) (d : Nat) : Nat := if flip then 7 - d else d

/-- The pattern value of an item at its own pixel (`dx`, `dy`) (R423). -/
def itemValue (s : State) (it : DrawItem) (dx dy : Nat) : Nat :=
  patternValue s it.pat (flipped it.hflip dx) (flipped it.vflip dy)

/-- Draw one pixel of an item (R423): in a masked pass a pattern value of 0 is skipped. -/
def drawPixel (s : State) (masked : Bool) (it : DrawItem) (dx dy : Nat) (fb : Framebuffer) : Framebuffer :=
  let v := itemValue s it dx dy
  if masked && v == 0 then fb
  else plot s.params.zoom (it.x + dx) (it.y + dy) (colour s it.palBase v) fb

/-- Draw one item: its 64 pixels, row by row (R423). -/
def drawItem (s : State) (masked : Bool) (it : DrawItem) (fb : Framebuffer) : Framebuffer :=
  (List.range 8).foldl (fun fb dy => (List.range 8).foldl (fun fb dx => drawPixel s masked it dx dy fb) fb) fb

/-- `DrawLayer` (R421): the items in queue order. -/
def drawLayer (s : State) (masked : Bool) (layer : List DrawItem) (fb : Framebuffer) : Framebuffer :=
  layer.foldl (fun fb it => drawItem s masked it fb) fb

/-- The four passes of `Composite` (R420; the first is unmasked, 90_conflicts.md C3). -/
def compositePasses (s : State) : Framebuffer :=
  drawLayer s true s.rend.front
    (drawLayer s true s.rend.bg
      (drawLayer s true s.rend.behind
        (drawLayer s false s.rend.bg s.rend.fb)))

/-- The whole framebuffer as one block: the arguments of `sink.publish` (R429, R437). -/
def screenBlock (s : State) : Publication :=
  { x := 0, y := 0, w := 256 * s.params.zoom, h := 240 * s.params.zoom, pixels := s.rend.fb }

/-- `Publish` (R429): the block goes to the sink, after those this step has handed over before it. -/
def publish (s : State) : State := s.setPublished (s.published ++ [screenBlock s])

/-- `Composite` (R420): the passes, the layers cleared (R428), then the publication. -/
def composite (s : State) : State :=
  publish (s.setRend { bg := [], behind := [], front := [], fb := compositePasses s })

end Sys2Proof.Machine
end

