-- ==== Sys2Proof/Machine/ScanlineEngine.lean ====
section
/-! DEFINITION. The PPU scanline engine (spec 47_ppu_scanline.md): the line counter driven by cycle credits, the three phases, the
background row build, the sprite-0 check and sprite evaluation. -/

namespace Sys2Proof.Machine

/-! ## Background row build -/

/-- The scrolled column position of tile column `c` (R390). -/
def scrolledX (r : PpuRegs) (c : Nat) : Nat := (8 * c + r.scrollX.toNat + 256 * flag (ctrlNt0 r)) % 512

/-- The scrolled row position of tile row `row` (R390). -/
def scrolledY (r : PpuRegs) (row : Nat) : Nat := (8 * row + r.scrollY.toNat + 240 * flag (ctrlNt1 r)) % 480

/-- The address of the nametable a scrolled position falls in (R391). -/
def nametableBase (absX absY : Nat) : Nat := 0x2000 + 0x400 * (absX / 256 + 2 * (absY / 240))

/-- The tile byte's address (R391). -/
def tileAddr (absX absY : Nat) : Addr :=
  BitVec.ofNat 16 (nametableBase absX absY + 32 * (absY % 240 / 8) + absX % 256 / 8)

/-- The attribute byte's address (R392). -/
def attrAddr (absX absY : Nat) : Addr :=
  BitVec.ofNat 16 (nametableBase absX absY + 0x3C0 + 8 * (absY % 240 / 8 / 4) + absX % 256 / 8 / 4)

/-- How far the attribute byte is shifted right for the tile's quadrant (R392). -/
def attrShift (absX absY : Nat) : Nat := 4 * (absY % 240 / 8 % 4 / 2) + 2 * (absX % 256 / 8 % 4 / 2)

/-- A pattern table's base: 0x1000 when the bit is set (10_state.md R41). -/
def patternBase (b : Bool) : Addr := if b then 0x1000 else 0x0000

/-- The first pattern byte of a tile (20_memory.md R103). -/
def tilePattern (base : Addr) (tile : Byte) : Addr := base + 16 * zext16 tile

/-- The background item of tile column `c` in tile row `row` (R393). -/
def backgroundItem (s : State) (row c : Nat) : DrawItem :=
  let absX := scrolledX s.ppu c
  let absY := scrolledY s.ppu row
  let tile := ppuMemRead (tileAddr absX absY) s
  let pal : BitVec 2 := (ppuMemRead (attrAddr absX absY) s >>> attrShift absX absY).setWidth 2
  { pat := tilePattern (patternBase (ctrlBpt s.ppu)) tile
    palBase := 0x3F00 + 4 * pal.setWidth 16
    sprite := none
    palette := pal
    x := 8 * c
    y := 8 * row
    hflip := false
    vflip := false }

/-- `BuildBackgroundRow` (R390 to R393): one item for each tile column, appended to BG. -/
def buildBackgroundRow (row : Nat) (s : State) : State :=
  s.setRend { s.rend with bg := s.rend.bg ++ (List.range Config.tileColumns).map (backgroundItem s row) }

/-! ## Sprite 0 and sprite evaluation -/

/-- The height of a sprite (10_state.md R41). -/
def spriteHeight (r : PpuRegs) : Nat := if ctrlSh r then 16 else 8

/-- The top row of sprite `i`: its OAM Y byte and P_SPRITE_Y_OFFSET (R394, R396). -/
def spriteTop (s : State) (i : Nat) : Nat := (s.vmem.oam.read (4 * i)).toNat + s.params.spriteYOffset.val

/-- Whether sprite 0's rows overlap tile row `row` (R394). -/
def sprite0Overlaps (s : State) (row : Nat) : Bool :=
  decide (spriteTop s 0 < 8 * row + 8 ∧ spriteTop s 0 + spriteHeight s.ppu > 8 * row)

/-- `Sprite0Check` (R394): only rows are compared, and only with both enables set. -/
def sprite0Check (row : Nat) (s : State) : State :=
  if maskBge s.ppu && maskSpe s.ppu && sprite0Overlaps s row then s.setPpu { s.ppu with s0 := true } else s

/-- One item of a sprite (R396). -/
def spritePart (attr x : Byte) (i : Fin 64) (pat : Addr) (y : Int) : DrawItem :=
  { pat := pat
    palBase := 0x3F10 + 4 * (attr.setWidth 2).setWidth 16
    sprite := some i
    palette := attr.setWidth 2
    x := x.toNat
    y := y
    hflip := bit attr 6
    vflip := bit attr 7 }

/-- The items of sprite `i`: one for an 8x8 sprite (R397), two stacked ones for an 8x16 sprite (R398). -/
def spriteItems (s : State) (i : Fin 64) : List DrawItem :=
  let tile := s.vmem.oam.read (4 * i.val + 1)
  let attr := s.vmem.oam.read (4 * i.val + 2)
  let x := s.vmem.oam.read (4 * i.val + 3)
  let top : Int := spriteTop s i.val
  if ctrlSh s.ppu then
    let base := patternBase (bit tile 0)
    let t0 := tile &&& 0xFE
    let t1 := t0 + 1
    let upper := if bit attr 7 then t1 else t0
    let lower := if bit attr 7 then t0 else t1
    [spritePart attr x i (tilePattern base upper) top, spritePart attr x i (tilePattern base lower) (top + 8)]
  else [spritePart attr x i (tilePattern (patternBase (ctrlSpt s.ppu)) tile) top]

/-- Sprite `i` is behind the background: bit 5 of its attribute byte (R396). -/
def spriteBehind (s : State) (i : Fin 64) : Bool := bit (s.vmem.oam.read (4 * i.val + 2)) 5

/-- `EvaluateSprites` (R396): all 64 entries in ascending order, each appended to its layer. -/
def evaluateSprites (s : State) : State :=
  let ids := List.finRange 64
  s.setRend { s.rend with
    behind := s.rend.behind ++ (ids.filter (spriteBehind s)).flatMap (spriteItems s)
    front := s.rend.front ++ (ids.filter (fun i => !spriteBehind s i)).flatMap (spriteItems s) }

/-! ## The phases and the line counter -/

/-- `TileRow` (R382): the cursor advances whether or not the background is enabled. -/
def tileRow (s : State) : State :=
  let row := s.scan.rowCursor
  let s1 := s.setScan { s.scan with rowCursor := row + 1 }
  if maskBge s1.ppu then sprite0Check row (buildBackgroundRow row s1) else s1

/-- `VblankEntry` (R384): the one place the NMI is raised. -/
def vblankEntry (s : State) : State :=
  let s1 := s.setPpu { s.ppu with vbl := true }
  if ctrlNmie s1.ppu then s1.setNmi true else s1

/-- `FrameBoundary` (R385). -/
def frameBoundary (s : State) : State :=
  let s1 := if maskSpe s.ppu then evaluateSprites s else s
  let s2 := composite s1
  let s3 := s2.setPpu { s2.ppu with vbl := false, s0 := false }
  s3.setScan { s3.scan with line := 0, rowCursor := 0 }

/-- `LinePhases` (R381), for the line the counter has just reached; with it, how many frames were completed. -/
def linePhases (s : State) : State × Nat :=
  let l := s.scan.line
  if l ≤ Config.visibleRows ∧ l % Config.tileRowHeight = 0 then (tileRow s, 0)
  else if l = Config.visibleRows + 1 then (vblankEntry s, 0)
  else if Config.frameLines ≤ l then (frameBoundary s, 1)
  else (s, 0)

/-- One turn of the loop of `run` (R380): a line's credits are spent, the counter moves, the phases run. -/
def nextLine (s : State) : State × Nat :=
  linePhases (s.setScan { s.scan with cycAcc := s.scan.cycAcc - Config.cyclesPerLine, line := s.scan.line + 1 })

/-- The loop of `run` (R380), at most `fuel` turns; it ends when less than a line's credits are left. -/
def runLines : Nat → State → State × Nat
  | 0, s => (s, 0)
  | fuel + 1, s =>
    if Config.cyclesPerLine ≤ s.scan.cycAcc then
      let r := nextLine s
      let r' := runLines fuel r.1
      (r'.1, r.2 + r'.2)
    else (s, 0)

/-- `run(n)` (R380): the state after it and the number of frames completed. The loop turns once per whole line of credits. -/
def run (n : Nat) (s : State) : State × Nat :=
  runLines ((s.scan.cycAcc + n) / Config.cyclesPerLine) (s.setScan { s.scan with cycAcc := s.scan.cycAcc + n })

end Sys2Proof.Machine
end

