-- ==== Sys2Proof/Machine/Timing.lean ====
section
/-! DEFINITION. The cost of an instruction (spec 70_reset_and_hazards.md R520, R521). Everything here is read from the state the
instruction is executed in, right after its fetch: PC holds PCn, and no access of the instruction has been made (log entry 12). -/

namespace Sys2Proof.Machine

/-- The pointer an Indirect Indexed operand takes from zero page (40_addressing_modes.md R184). -/
def zeroPageWord (s : State) (z : Byte) : Addr := word (s.ram.read z.toNat) (s.ram.read (z + 1).toNat)

/-- Whether a branch's condition holds (44_control_flow.md R291 to R298); no other instruction is a branch. -/
def branchTaken (i : Instr) (p : Flags) : Bool :=
  match i.mnemonic with
  | .BCC => !p.c
  | .BCS => p.c
  | .BEQ => p.z
  | .BNE => !p.z
  | .BMI => p.n
  | .BPL => !p.n
  | .BVC => !p.v
  | .BVS => p.v
  | _ => false

/-- Whether the operand crosses a page (40_addressing_modes.md R186). -/
def pageCrossed (o : Operand) (s : State) : Bool :=
  match o with
  | .absx a => differentPage a (a + zext16 s.cpu.x)
  | .absy a => differentPage a (a + zext16 s.cpu.y)
  | .indy z => differentPage (zeroPageWord s z) (zeroPageWord s z + zext16 s.cpu.y)
  | .rel r => differentPage s.cpu.pc (s.cpu.pc + sext16 r)
  | _ => false

/-- The reference cost of an opcode (R520). -/
def referenceCost (op : Byte) (crossed taken : Bool) : Nat :=
  match opcodeRow op with
  | none => 0
  | some row =>
    row.cycles +
      match row.extra with
      | .none => 0
      | .pageCross => flag crossed
      | .branch => if taken then 1 + flag crossed else 0

/-- P_COST (R520, log entry 11). -/
def instrCost (f : CostFunction) (op : Byte) (crossed taken : Bool) : Nat :=
  match f with
  | .reference => referenceCost op crossed taken
  | .table costs => costs.getD (4 * op.toNat + 2 * flag crossed + flag taken) 0

/-- Whether an instruction writes to its operand's address: the stores and the read-modify-writes. -/
def writesOperand (m : Mnemonic) : Bool :=
  match m with
  | .STA | .STX | .STY | .INC | .DEC | .ASL | .LSR | .ROL | .ROR => true
  | _ => false

/-- The address of a storing operand, found without a bus access: its pointer, if any, lies in zero page. -/
def storeAddr (o : Operand) (s : State) : Option Addr :=
  match o with
  | .zp z => some (zext16 z)
  | .zpx z => some (zext16 (z + s.cpu.x))
  | .zpy z => some (zext16 (z + s.cpu.y))
  | .abs a => some a
  | .absx a => some (a + zext16 s.cpu.x)
  | .absy a => some (a + zext16 s.cpu.y)
  | .indx z => some (zeroPageWord s (z + s.cpu.x))
  | .indy z => some (zeroPageWord s z + zext16 s.cpu.y)
  | .imp | .acc | .imm _ | .ind _ | .rel _ => none

/-- Whether the instruction writes 0x4014 and so runs OAM DMA (20_memory.md R87). Stack writes never leave page 1. -/
def triggersDma (i : Instr) (s : State) : Bool :=
  writesOperand i.mnemonic && decide (storeAddr i.operand s = some Config.dmaPort)

/-- The cycles CpuStep returns for an instruction: P_COST, and 513 more for OAM DMA (R520, R521; 60_exceptions.md R471). -/
def cpuCost (i : Instr) (s : State) : Nat :=
  instrCost s.params.cost i.opcode (pageCrossed i.operand s) (branchTaken i s.cpu.p) +
    if triggersDma i s then Config.dmaCycles else 0

end Sys2Proof.Machine
end

