-- ==== Sys2Proof/Machine/System.lean ====
section
/-! DEFINITION. The system step (spec 60_exceptions.md R470, R471): one CPU step, which is an NMI entry or one instruction, then
the PPU's run on its credits; and the load that places an instruction where the next step fetches it. -/

namespace Sys2Proof.Machine

/-- The PPU's half of the system step (R470, 70_reset_and_hazards.md R523): `c` is what the CPU step returned. -/
def ppuRun (c : Nat) (s : State) : State :=
  let r := run (c * s.params.ppuRatio) s
  r.1.setReport (.stepped c r.2)

/-- The end of a system step whose CPU step has left the state `s` at a cost of `c` cycles: a step that has recorded a fault
charges nothing and does not run the PPU (R453, R470). The blocks of the step before are the sink's by now (log entry 13). -/
def endStep (c : Nat) (s : State) : State :=
  match s.fault with
  | some _ => (s.setPublished []).setReport .faulted
  | none => ppuRun c (s.setPublished [])

/-- A CPU step that services the pending NMI, which `take` has cleared (R458 to R460). -/
def nmiStep (s : State) : Host.Outcome State Fault Refusal :=
  match nmiEntry (s.setNmi false) with
  | .ok _ t => .next (endStep Config.nmiCycles t)
  | .stopped t => .next (endStep Config.nmiCycles t)

/-- A CPU step that runs the instruction `i`, fetched into the state `t` (R471). -/
def instrStep (i : Instr) (t : State) : Host.Outcome State Fault Refusal :=
  match exec i t with
  | .next u => .next (endStep (cpuCost i t) u)
  | .fault f => .fault f
  | .refused r => .refused r

/-- A CPU step with no NMI pending: fetch, then execute (R471). A fetch that faults ends it. -/
def fetchStep (s : State) : Host.Outcome State Fault Refusal :=
  match fetchInstr s with
  | .ok i t => instrStep i t
  | .stopped t => .next (endStep 0 t)

/-- `SystemStep` of a machine that holds no fault record (R470). -/
def systemStep (s : State) : Host.Outcome State Fault Refusal :=
  if s.nmiPending then nmiStep s else fetchStep s

/-! ## Placing an instruction -/

/-- A CPU address that holds a byte a fetch reads without side effect: RAM or PRG-ROM. -/
def holdsCode (a : Addr) : Bool := decide (a.toNat < 0x2000 ∨ 0x8000 ≤ a.toNat)

/-- Place one byte at such an address: into RAM, or into the image the loader hands over. -/
def placeByte (a : Addr) (v : Byte) (s : State) : State :=
  if a.toNat < 0x2000 then s.setRam (s.ram.write (a.toNat % Config.ramSize) v)
  else s.setParams { s.params with
    prg := s.params.prg.write ((a.toNat - 0x8000) % (Config.prgUnit * s.params.prgUnits)) v }

/-- Place bytes from an address up. -/
def placeBytes (a : Addr) : List Byte → State → State
  | [], s => s
  | v :: vs, s => placeBytes (a + 1) vs (placeByte a v s)

/-- Where the placed instruction goes: the address in PC if its three bytes hold code, else the first address of PRG-ROM. -/
def placeAt (pc : Addr) : Addr := if holdsCode pc && holdsCode (pc + 1) && holdsCode (pc + 2) then pc else 0x8000

/-- The state whose next step fetches and runs the given bytes: no NMI is pending and no fault is recorded, PC names them, and
they are stored there. It stands for the load of a program (log entry 9). -/
def placeInstr (bytes : List Byte) (s : State) : State :=
  let s1 := ((s.setNmi false).setMacro .running).setPc (placeAt s.cpu.pc)
  placeBytes s1.cpu.pc bytes s1

end Sys2Proof.Machine
end

