-- ==== Sys2Proof/Machine/Step.lean ====
section
/-! DEFINITION. One step of the machine: the system step of spec 60_exceptions.md R470. A faulted machine takes none (R452). -/

namespace Sys2Proof.Machine

/-- `SystemStep`: a state that holds a fault record answers that fault and changes no more. -/
def step (s : State) : Host.Outcome State Fault Refusal :=
  match s.fault with
  | some f => .fault f
  | none => systemStep s

/-- The state with a table word's instruction placed where the next step fetches (log entry 9). -/
def State.withFetchWord (s : State) (nbits w : Nat) : State := placeInstr (tableWordBytes nbits w) s

end Sys2Proof.Machine
end

