-- ==== Sys2Proof/Machine/Reset.lean ====
section
/-! DEFINITION. Reset for every image and every draw (spec 70_reset_and_hazards.md R500, 10_state.md R60), the host's move of
60_exceptions.md R491. -/

namespace Sys2Proof.Machine

/-- The word at a CPU address of PRG-ROM: the vectors' home (20_memory.md R91). -/
def prgWord (p : Params) (a : Addr) : Addr := word (prgByte p a) (prgByte p (a + 1))

/-- `Reset(draws)` (R500): PC from the reset vector, SP, I and D as given, the draws, and every other piece of state at its value
in R60. The parameters are the loader's. -/
def resetWith (p : Params) (d : ResetDraws) : State where
  cpu := { a := d.a, x := d.x, y := d.y, sp := 0xFF, pc := prgWord p Config.resetVector,
           p := { c := d.c, z := d.z, i := true, d := false, b := d.b, v := d.v, n := d.n },
           macroState := .running }
  ram := d.ram
  nmiPending := false
  ppu := { ctrl := 0x00, mask := 0x00, vbl := false, s0 := false, oamAddr := 0x00, scrollX := 0x00, scrollY := 0x00,
           vramAddr := 0x0000, w := .first, readBuf := 0x00 }
  scan := { cycAcc := 0, line := 0, rowCursor := 0 }
  vmem := { chr := p.chr.getD d.chr, ciram := d.ciram, pal := d.pal, oam := d.oam }
  rend := { bg := [], behind := [], front := [], fb := d.fb }
  params := p
  draws := d.draws
  report := .none
  published := []

/-- Resetting a machine that has run, a faulted one too (10_state.md R59): only the parameters survive. -/
def State.resetAgain (s : State) (d : ResetDraws) : State := resetWith s.params d

/-- The draws of State.reset: zero (DESIGN CHOICE, log entries 6 and 7). -/
def ResetDraws.zero : ResetDraws where
  a := 0x00
  x := 0x00
  y := 0x00
  c := false
  z := false
  v := false
  n := false
  b := false
  ram := []
  chr := []
  ciram := []
  pal := []
  oam := []
  fb := []
  draws := 0

end Sys2Proof.Machine
end

