-- ==== Sys2Proof/Safety.lean ====
section
/-! DEFINITION. What counts as a safe run, and the terms the statements use: the launch premises (spec 70_reset_and_hazards.md
R512), the end of a run (60_exceptions.md R473), the invariant every step keeps, and the pixel priority of 48_compositor.md R422. -/

namespace Sys2Proof.Machine

/-! ## Runs -/

/-- `NoFault` (R512): no fault is recorded. -/
def NoFault (s : State) : Prop := s.fault = none

/-- `CleanReset` (R512): the state of reset for an accepted image and some draws. -/
def CleanReset (s : State) : Prop := ∃ p d, Params.wf p ∧ s = resetWith p d

/-- `VectorsAt(r, n)` (R512): the reset vector holds `r` and the NMI vector holds `n`. -/
def VectorsAt (r n : Addr) (s : State) : Prop :=
  prgWord s.params Config.resetVector = r ∧ prgWord s.params Config.nmiVector = n

/-- `NothingInFlight` (R512): no NMI is pending and the three layers are empty. `ParamsFixed` holds of every run, since no step
changes the parameters. -/
def NothingInFlight (s : State) : Prop :=
  s.nmiPending = false ∧ s.rend.bg = [] ∧ s.rend.behind = [] ∧ s.rend.front = []

/-- The step boundary a run can end at (R473): no fault is recorded and PC holds a JMP to itself. R473 says only that the bytes at
PC equal `4C lo hi`. DESIGN CHOICE, log entry 19: they are read by `peek`, so a byte in 0x2000-0x7FFF, whose reading is an access
with effects or a free value, is never one of them. -/
def SelfJumpBoundary (s : State) : Prop :=
  NoFault s ∧ peek s s.cpu.pc = some 0x4C ∧ peek s (s.cpu.pc + 1) = some (lowByte s.cpu.pc) ∧
    peek s (s.cpu.pc + 2) = some (highByte s.cpu.pc)

/-- `k` steps. -/
def stepsTo : Nat → State → State → Prop
  | 0, s, t => t = s
  | k + 1, s, t => ∃ u, step s = .next u ∧ stepsTo k u t

/-- The run from `s` ends after `k` steps in the state `t`, before the JMP executes (R473): `t` is the first step boundary of the
run, `s` itself among them, that is a SelfJumpBoundary. It does not say that the machine stops there. -/
structure EndOfRun (k : Nat) (s t : State) : Prop where
  reached : stepsTo k s t
  selfJump : SelfJumpBoundary t
  first : ∀ j u, j < k → stepsTo j s u → ¬SelfJumpBoundary u

/-- A safe run of `k` steps: it takes them all, and no fault is recorded at its end; faults are never cleared, so none was
recorded before (R452). -/
def SafeRun (k : Nat) (s : State) : Prop := ∃ t, stepsTo k s t ∧ NoFault t

/-! ## The invariant -/

/-- The memories keep their canonical form and their sizes (10_state.md R50 to R55). -/
structure MemoryInv (s : State) : Prop where
  ram : s.ram.wf ∧ s.ram.below Config.ramSize
  chr : s.vmem.chr.wf ∧ s.vmem.chr.below 8192
  ciram : s.vmem.ciram.wf ∧ s.vmem.ciram.below 2048
  pal : s.vmem.pal.wf ∧ s.vmem.pal.below 32
  oam : s.vmem.oam.wf ∧ s.vmem.oam.below Config.oamSize

/-- The scanline engine between runs (10_state.md R49, 60_exceptions.md R476): the credits left are less than a line's, the line
is one of the frame's, and the cursor is the number of tile rows started this frame. -/
structure ScanInv (e : Scanline) : Prop where
  cycAcc : e.cycAcc < Config.cyclesPerLine
  line : e.line < Config.frameLines
  rowCursor : e.rowCursor = min (e.line / 8) 30

/-- A draw item's 16 pattern bytes lie in the pattern tables (48_compositor.md R435). -/
def itemInPatterns (it : DrawItem) : Prop := it.pat.toNat + 15 ≤ 0x1FFF

/-- The renderer between steps: background items lie in the pattern tables, the sprite layers are empty (they are filled and
cleared at the frame boundary, 47_ppu_scanline.md R385, 48_compositor.md R428), and the framebuffer keeps its form. -/
structure RenderInv (r : Renderer) : Prop where
  bg : ∀ it ∈ r.bg, itemInPatterns it
  behind : r.behind = []
  front : r.front = []
  fb : fbWf r.fb

/-- The invariant between steps. -/
structure State.Inv (s : State) : Prop where
  memory : MemoryInv s
  scan : ScanInv s.scan
  render : RenderInv s.rend
  macroState : s.cpu.macroState ≠ .servicingInterrupt

/-! ## Pixel priority -/

/-- An item covers a logical pixel (R422). -/
def itemCovers (it : DrawItem) (px py : Int) : Bool :=
  decide (it.x ≤ px ∧ px < it.x + 8 ∧ it.y ≤ py ∧ py < it.y + 8)

/-- The last item of a layer with an opaque pixel there; `value` gives the pattern value of an item at a logical pixel. -/
def lastOpaque (value : DrawItem → Int → Int → Nat) (layer : List DrawItem) (px py : Int) : Option DrawItem :=
  (layer.filter fun it => itemCovers it px py && value it px py != 0).getLast?

/-- The last item of a layer covering the pixel. -/
def lastCovering (layer : List DrawItem) (px py : Int) : Option DrawItem :=
  (layer.filter fun it => itemCovers it px py).getLast?

/-- The colour a logical pixel holds after Composite: the first case of R422 that applies. `value` gives the pattern value of an
item at a logical pixel it covers (R423, R424), `hue` the colour of an entry of a palette (R425, R426), and `old` is what the pixel
held before. -/
def priorityColour (value : DrawItem → Int → Int → Nat) (hue : Addr → Nat → Pixel) (r : Renderer) (px py : Int) (old : Pixel) :
    Pixel :=
  match lastOpaque value r.front px py with
  | some it => hue it.palBase (value it px py)
  | none =>
    match lastOpaque value r.bg px py with
    | some it => hue it.palBase (value it px py)
    | none =>
      match lastOpaque value r.behind px py with
      | some it => hue it.palBase (value it px py)
      | none =>
        match lastCovering r.bg px py with
        | some it => hue it.palBase 0
        | none => old

end Sys2Proof.Machine
end

