-- ==== Sys2Proof/Certificates/Slice0/Obligations.lean ====
section
/-! DEFINITION. The statements for the provers. Each is a def Obligations.<Name> : Prop. The definitions before them, under
Sys2Proof.Spec, write down formulas of the spec the way its rules give them, apart from the model's own. -/

open Sys2Proof Sys2Proof.Machine

/-! ## Formulas of the spec -/

/-- The 105 undefined opcode bytes, as R146 lists them. -/
def Sys2Proof.Spec.undefinedOpcodes : List Byte :=
  [0x02, 0x03, 0x04, 0x07, 0x0B, 0x0C, 0x0F, 0x12, 0x13, 0x14, 0x17, 0x1A, 0x1B, 0x1C, 0x1F] ++
  [0x22, 0x23, 0x27, 0x2B, 0x2F, 0x32, 0x33, 0x34, 0x37, 0x3A, 0x3B, 0x3C, 0x3F, 0x42, 0x43] ++
  [0x44, 0x47, 0x4B, 0x4F, 0x52, 0x53, 0x54, 0x57, 0x5A, 0x5B, 0x5C, 0x5F, 0x62, 0x63, 0x64] ++
  [0x67, 0x6B, 0x6F, 0x72, 0x73, 0x74, 0x77, 0x7A, 0x7B, 0x7C, 0x7F, 0x80, 0x82, 0x83, 0x87] ++
  [0x89, 0x8B, 0x8F, 0x92, 0x93, 0x97, 0x9B, 0x9C, 0x9E, 0x9F, 0xA3, 0xA7, 0xAB, 0xAF, 0xB2] ++
  [0xB3, 0xB7, 0xBB, 0xBF, 0xC2, 0xC3, 0xC7, 0xCB, 0xCF, 0xD2, 0xD3, 0xD4, 0xD7, 0xDA, 0xDB] ++
  [0xDC, 0xDF, 0xE2, 0xE3, 0xE7, 0xEB, 0xEF, 0xF2, 0xF3, 0xF4, 0xF7, 0xFA, 0xFB, 0xFC, 0xFF]

/-- Z and N from a byte (R13). -/
def Sys2Proof.Spec.zn (v : Byte) (p : Flags) : Flags :=
  { p with z := decide (v.toNat = 0), n := decide (128 ≤ v.toNat) }

/-- The state after the whole of `i` has been fetched: PC moved past its bytes (10_state.md R32). -/
def Sys2Proof.Spec.fetched (s : State) (i : Instr) : State :=
  { s with cpu := { s.cpu with pc := s.cpu.pc + BitVec.ofNat 16 (encode i).length } }

/-- The end of a system step after a CPU step that cost `c` cycles: the PPU runs on `c` times P_PPU_RATIO credits (R470). The
blocks of the step before are the sink's by then (log entry 13). -/
def Sys2Proof.Spec.stepped (c : Nat) (u : State) : State :=
  let r := run (c * u.params.ppuRatio) { u with published := [] }
  { r.1 with report := .stepped c r.2 }

/-- The end of a system step whose CPU step has recorded a fault in `u`: the answer to the host and nothing else (R453, R470). -/
def Sys2Proof.Spec.steppedFaulted (u : State) : State := { u with report := .faulted, published := [] }

/-- The state with the fault record set and nothing else changed (R451, R453). -/
def Sys2Proof.Spec.faulted (s : State) (f : Fault) : State := { s with cpu := { s.cpu with macroState := .faulted f } }

/-- What a result of a bus access makes of an instruction that ends with it. -/
def Sys2Proof.Spec.endsWith (r : Res Unit) (o : Host.Outcome State Fault Refusal) : Prop :=
  (∀ t, r = .ok () t → o = .next t) ∧ ∀ t, r = .stopped t → o = .next t

/-- An instruction that asks for its operand's value and then makes of the value and the state after the read what `k` says; a read
that faults ends it there (R453). -/
def Sys2Proof.Spec.onValue (i : Instr) (s : State) (k : Byte → State → State) : Prop :=
  (∀ m t, operandValue i.operand s = .ok m t → exec i s = .next (k m t)) ∧
  ∀ u, operandValue i.operand s = .stopped u → exec i s = .next u

/-- The result of a shift on the operand `m` with carry in `c`, as a number (R271 to R274). -/
def Sys2Proof.Spec.shifted (k : Mnemonic) (m c : Nat) : Nat :=
  match k with
  | .ASL => 2 * m % 256
  | .LSR => m / 2
  | .ROL => (2 * m + c) % 256
  | .ROR => m / 2 + 128 * c
  | _ => m

/-- The bit a shift moves out (R271 to R274). -/
def Sys2Proof.Spec.shiftedOut (k : Mnemonic) (m : Nat) : Bool :=
  match k with
  | .ASL | .ROL => decide (128 ≤ m)
  | _ => decide (m % 2 = 1)

/-- The four shifts. -/
def Sys2Proof.Spec.shifts : List Mnemonic := [.ASL, .LSR, .ROL, .ROR]

/-- The instructions that ask only for a value (R187). -/
def Sys2Proof.Spec.valueReaders : List Mnemonic := [.LDA, .LDX, .LDY, .ADC, .SBC, .AND, .ORA, .EOR, .CMP, .CPX, .CPY, .BIT]

/-- The instructions that write to their operand: the stores, INC and DEC, and the shifts (R187). -/
def Sys2Proof.Spec.operandWriters : List Mnemonic := [.STA, .STX, .STY, .INC, .DEC, .ASL, .LSR, .ROL, .ROR]

/-- The instructions that push (R36). -/
def Sys2Proof.Spec.pushers : List Mnemonic := [.PHA, .PHP, .JSR, .BRK]

/-- A sprite's items by R396 to R398: `t0` is its tile byte, `at` its attribute byte. -/
def Sys2Proof.Spec.spriteItems (s : State) (i : Fin 64) : List DrawItem :=
  let top : Int := (s.vmem.oam.read (4 * i.val)).toNat + s.params.spriteYOffset.val
  let t := (s.vmem.oam.read (4 * i.val + 1)).toNat
  let at' := s.vmem.oam.read (4 * i.val + 2)
  let x : Int := (s.vmem.oam.read (4 * i.val + 3)).toNat
  let item (pat : Nat) (y : Int) : DrawItem :=
    { pat := BitVec.ofNat 16 pat, palBase := BitVec.ofNat 16 (0x3F10 + 4 * (at'.toNat % 4)), sprite := some i,
      palette := BitVec.ofNat 2 at'.toNat, x := x, y := y, hflip := at'.getLsbD 6, vflip := at'.getLsbD 7 }
  if s.ppu.ctrl.getLsbD 5 then
    let base := if t % 2 = 1 then 0x1000 else 0
    let t0 := 2 * (t / 2)
    if at'.getLsbD 7 then [item (base + 16 * (t0 + 1)) top, item (base + 16 * t0) (top + 8)]
    else [item (base + 16 * t0) top, item (base + 16 * (t0 + 1)) (top + 8)]
  else [item ((if s.ppu.ctrl.getLsbD 3 then 0x1000 else 0) + 16 * t) top]

/-- The background item of tile column `c` in tile row `r` by R390 to R393. -/
def Sys2Proof.Spec.backgroundItem (s : State) (r c : Nat) : DrawItem :=
  let absX := (8 * c + s.ppu.scrollX.toNat + if s.ppu.ctrl.getLsbD 0 then 256 else 0) % 512
  let absY := (8 * r + s.ppu.scrollY.toNat + if s.ppu.ctrl.getLsbD 1 then 240 else 0) % 480
  let ntBase := 0x2000 + 0x400 * (absX / 256 + 2 * (absY / 240))
  let tx := absX % 256 / 8
  let ty := absY % 240 / 8
  let tile := (ppuMemRead (BitVec.ofNat 16 (ntBase + 32 * ty + tx)) s).toNat
  let attr := (ppuMemRead (BitVec.ofNat 16 (ntBase + 0x3C0 + 8 * (ty / 4) + tx / 4)) s).toNat
  let pal := attr / 2 ^ (4 * (ty % 4 / 2) + 2 * (tx % 4 / 2)) % 4
  { pat := BitVec.ofNat 16 ((if s.ppu.ctrl.getLsbD 4 then 0x1000 else 0) + 16 * tile)
    palBase := BitVec.ofNat 16 (0x3F00 + 4 * pal), sprite := none, palette := BitVec.ofNat 2 pal
    x := 8 * c, y := 8 * r, hflip := false, vflip := false }

/-- PatternValue (R424): the two bit planes of a tile, bit 7 of a row leftmost. -/
def Sys2Proof.Spec.patternValue (s : State) (pat : Addr) (sx sy : Nat) : Nat :=
  let plane (k : Nat) : Nat := (ppuMemRead (BitVec.ofNat 16 (pat.toNat + k + sy)) s).toNat / 2 ^ (7 - sx) % 2
  plane 0 + 2 * plane 8

/-- The pattern value of an item at a logical pixel it covers, with its flips (R423). -/
def Sys2Proof.Spec.itemValue (s : State) (it : DrawItem) (px py : Int) : Nat :=
  let dx := (px - it.x).toNat
  let dy := (py - it.y).toNat
  Spec.patternValue s it.pat (if it.hflip then 7 - dx else dx) (if it.vflip then 7 - dy else dy)

/-- Colour (R425, R426): the palette byte through the read adjustment, mod 64, through P_SYSTEM_PALETTE. -/
def Sys2Proof.Spec.colour (s : State) (palBase : Addr) (v : Nat) : Pixel :=
  Config.systemPalette (BitVec.ofNat 6 ((ppuMemRead (BitVec.ofNat 16 (palBase.toNat + v)) s).toNat % 64))

/-- Whether an operand crosses a page (R186): the base and the address, or PCn and the branch target, differ in bits 15:8. -/
def Sys2Proof.Spec.crossed (s : State) (o : Operand) : Bool :=
  let differ (a b : Nat) : Bool := decide (a / 256 ≠ b % 65536 / 256)
  match o with
  | .absx a => differ a.toNat (a.toNat + s.cpu.x.toNat)
  | .absy a => differ a.toNat (a.toNat + s.cpu.y.toNat)
  | .indy z =>
    let base := (s.ram.read z.toNat).toNat + 256 * (s.ram.read ((z.toNat + 1) % 256)).toNat
    differ base (base + s.cpu.y.toNat)
  | .rel r => differ s.cpu.pc.toNat (s.cpu.pc.toNat + if r.toNat < 128 then r.toNat else r.toNat + 0xFF00)
  | _ => false

/-- Whether a branch is taken (R291 to R298). -/
def Sys2Proof.Spec.taken (i : Instr) (p : Flags) : Bool :=
  match i with
  | .bcc _ => !p.c
  | .bcs _ => p.c
  | .beq _ => p.z
  | .bne _ => !p.z
  | .bmi _ => p.n
  | .bpl _ => !p.n
  | .bvc _ => !p.v
  | .bvs _ => p.v
  | _ => false

/-- The reference cost of a mnemonic in a mode (R520), by the columns of its table. -/
def Sys2Proof.Spec.referenceCost (m : Mnemonic) (d : Mode) (crossed taken : Bool) : Nat :=
  let one (b : Bool) : Nat := if b then 1 else 0
  let modifies := m ∈ [Mnemonic.ASL, .LSR, .ROL, .ROR, .INC, .DEC]
  let stores := m ∈ [Mnemonic.STA, .STX, .STY]
  match d with
  | .imp =>
    match m with
    | .BRK => 7
    | .RTI | .RTS => 6
    | .PLA | .PLP => 4
    | .PHA | .PHP => 3
    | _ => 2
  | .acc | .imm => 2
  | .zp => if modifies then 5 else 3
  | .zpx | .zpy => if modifies then 6 else 4
  | .abs => if modifies ∨ m = .JSR then 6 else if m = .JMP then 3 else 4
  | .absx | .absy => if modifies then 7 else if stores then 5 else 4 + one crossed
  | .ind => 5
  | .indx => 6
  | .indy => if stores then 6 else 5 + one crossed
  | .rel => 2 + if taken then 1 + one crossed else 0

/-! ## Encoding -/

/-- Decoding the encoding of any instruction gives it back, with whatever bytes follow (R140 to R145). -/
def Obligations.DecodeOfEncodeIsTheInstruction : Prop :=
  ∀ (i : Instr) (rest : List Byte), decode (encode i ++ rest) = .ok i rest

/-- Whatever bytes decode are the encoding of the instruction they decode to, followed by the rest. -/
def Obligations.EncodeOfDecodedIsTheBytesRead : Prop :=
  ∀ (bytes rest : List Byte) (i : Instr), decode bytes = .ok i rest → bytes = encode i ++ rest

/-- A few words of the opcode map, one for each family (R144). -/
def Obligations.SampleWordsDecode : Prop :=
  decode [0xA9, 0x80] = .ok (.ldaImm 0x80) [] ∧ decode [0x96, 0xF8] = .ok (.stxZpy 0xF8) [] ∧
  decode [0x61, 0x20] = .ok (.adcIndx 0x20) [] ∧ decode [0xFE, 0x34, 0x12] = .ok (.incAbsx 0x1234) [] ∧
  decode [0x6A] = .ok .rorAcc [] ∧ decode [0x6C, 0xFF, 0x02] = .ok (.jmpInd 0x02FF) [] ∧
  decode [0xD0, 0xFE, 0x00] = .ok (.bne 0xFE) [0x00] ∧ decode [0x08] = .ok .php [] ∧ decode [0x00] = .ok .brk []

/-- The well-formed terms, mnemonic and operand, are exactly the terms of instructions (R143, R150). -/
def Obligations.WellFormedTermsAreTheInstructions : Prop :=
  ∀ t : RawInstr, t.wf = true ↔ ∃ i : Instr, i.raw = t

/-! ## The step -/

/-- The bytes at PC that encode `i` are fetched as `i`, with PC moved past them; and a step that fetches `i` runs exec of `i` in
the state after the fetch, then the PPU on the cost of that instruction, unless a fault was recorded, which charges nothing
(R453, R470, R471). -/
def Obligations.StepRunsTheDecodedInstruction : Prop :=
  ∀ (s : State) (i : Instr),
    ((∀ k b, (encode i)[k]? = some b → peek s (s.cpu.pc + BitVec.ofNat 16 k) = some b) →
      fetchInstr s = .ok i (Spec.fetched s i)) ∧
    ∀ t u : State, s.fault = none → s.nmiPending = false → fetchInstr s = .ok i t → exec i t = .next u →
      step s = .next (if u.fault = none then Spec.stepped (cpuCost i t) u else Spec.steppedFaulted u)

/-- The 105 undefined bytes (R143, R146): the decoder rejects exactly them, by name, whatever follows; and a step whose opcode fetch
gives one records IllegalOpcode with the byte and its address, and changes nothing else but the report to the host (R453). The
fetch itself moves PC past the one byte, and from RAM or PRG-ROM does nothing else. -/
def Obligations.UndefinedOpcodesFaultAtFetch : Prop :=
  (∀ (op : Byte) (rest : List Byte), decode (op :: rest) = .illegalOpcode op ↔ op ∈ Spec.undefinedOpcodes) ∧
  ∀ (s : State) (op : Byte), s.fault = none → s.nmiPending = false → op ∈ Spec.undefinedOpcodes →
    (∀ t, busRead s.cpu.pc s = .ok op t →
      step s = .next (Spec.steppedFaulted
        (Spec.faulted { t with cpu := { t.cpu with pc := s.cpu.pc + 1 } } (.illegalOpcode op s.cpu.pc)))) ∧
    (peek s s.cpu.pc = some op → busRead s.cpu.pc s = .ok op s)

/-- The faulted state is absorbing: a machine that holds a fault record takes no step, however often it is asked, and a machine
that takes a step held none (R452). -/
def Obligations.FaultedMachineTakesNoStep : Prop :=
  (∀ (s : State) (f : Fault) (k : Nat), s.fault = some f → Sys2Proof.core.run (k + 1) s = .fault f) ∧
  ∀ s t : State, step s = .next t → s.fault = none

/-- A pending NMI is taken before the next fetch: PC and the status byte with bit 4 clear are pushed, I is set, PC is the word at
0xFFFA, the flag is cleared, and the step costs 7 cycles (R458 to R460, R522). -/
def Obligations.PendingNmiIsTakenBeforeTheFetch : Prop :=
  ∀ s : State, s.fault = none → s.nmiPending = true →
    step s = .next (Spec.stepped 7
      { s with
        nmiPending := false
        ram := ((s.ram.write (0x100 + s.cpu.sp.toNat) (highByte s.cpu.pc)).write
          (0x100 + (s.cpu.sp - 1).toNat) (lowByte s.cpu.pc)).write (0x100 + (s.cpu.sp - 2).toNat) (pack s.cpu.p false)
        cpu := { s.cpu with
          sp := s.cpu.sp - 3
          pc := word (prgByte s.params 0xFFFA) (prgByte s.params 0xFFFB)
          p := { s.cpu.p with i := true }
          macroState := .running } })

/-- No step records the two faults a program cannot reach: no instruction asks for a capability its mode lacks (R187), and OAM DMA
always hands over 256 bytes (R110). -/
def Obligations.NoStepRecordsAnUnreachableFault : Prop :=
  ∀ (s t : State), step s = .next t →
    (∀ m c, t.fault ≠ some (.operandCapability m c)) ∧ ∀ n, t.fault ≠ some (.oamTransferSize n)

/-! ## Invariants -/

/-- Every step keeps the invariant: the memories keep their canonical form and their sizes, the scanline engine its ranges, the
renderer its form, and no step ends in servicing-interrupt. -/
def Obligations.EveryStepKeepsTheInvariant : Prop :=
  ∀ s t : State, s.Inv → step s = .next t → t.Inv

/-- Reset meets the invariant, for every accepted image and all draws that are memories of their sizes. -/
def Obligations.ResetMeetsTheInvariant : Prop :=
  State.Inv State.reset ∧
  ∀ (p : Params) (d : ResetDraws), p.wf →
    d.ram.wf → d.ram.below 2048 → d.chr.wf → d.chr.below 8192 → d.ciram.wf → d.ciram.below 2048 →
    d.pal.wf → d.pal.below 32 → d.oam.wf → d.oam.below 256 → fbWf d.fb → (resetWith p d).Inv

/-! ## Reset -/

/-- Reset, for every image and every draw: PC from the reset vector, SP = 0xFF, I = 1, D = 0, no fault, no NMI pending, and the
PPU's registers and counters zero; a reset vector of bytes 0x00, 0x80 gives PC = 0x8000 (R500, R60). -/
def Obligations.ResetLoadsTheVectorAndClearsThePpu : Prop :=
  ∀ (p : Params) (d : ResetDraws),
    let s := resetWith p d
    s.cpu.pc = word (prgByte p 0xFFFC) (prgByte p 0xFFFD) ∧ s.cpu.sp = 0xFF ∧ s.cpu.p.i = true ∧ s.cpu.p.d = false ∧
    s.params = p ∧ s.cpu.macroState = .running ∧ s.fault = none ∧ s.nmiPending = false ∧
    s.ppu = { ctrl := 0, mask := 0, vbl := false, s0 := false, oamAddr := 0, scrollX := 0, scrollY := 0, vramAddr := 0,
              w := .first, readBuf := 0 } ∧
    s.scan = { cycAcc := 0, line := 0, rowCursor := 0 } ∧
    s.rend.bg = [] ∧ s.rend.behind = [] ∧ s.rend.front = [] ∧
    (s.cpu.a = d.a ∧ s.cpu.x = d.x ∧ s.cpu.y = d.y ∧ s.cpu.p.c = d.c ∧ s.cpu.p.z = d.z ∧ s.cpu.p.v = d.v ∧
      s.cpu.p.n = d.n ∧ s.cpu.p.b = d.b) ∧
    (s.ram = d.ram ∧ s.vmem.ciram = d.ciram ∧ s.vmem.pal = d.pal ∧ s.vmem.oam = d.oam ∧ s.rend.fb = d.fb) ∧
    (∀ m, p.chr = some m → s.vmem.chr = m) ∧ (p.chr = none → s.vmem.chr = d.chr) ∧
    (prgByte p 0xFFFC = 0x00 → prgByte p 0xFFFD = 0x80 → s.cpu.pc = 0x8000)

/-! ## Operands -/

/-- The address of each mode (R176 to R184): zero-page sums wrap in page 0, absolute sums wrap in 16 bits, pointers are read from
zero page and wrap there; none of these changes the state. -/
def Obligations.OperandAddressesOfTheModes : Prop :=
  ∀ (s : State) (z : Byte) (a : Addr),
    operandAddr (.zp z) s = .ok (BitVec.ofNat 16 z.toNat) s ∧
    operandAddr (.zpx z) s = .ok (BitVec.ofNat 16 ((z.toNat + s.cpu.x.toNat) % 256)) s ∧
    operandAddr (.zpy z) s = .ok (BitVec.ofNat 16 ((z.toNat + s.cpu.y.toNat) % 256)) s ∧
    operandAddr (.abs a) s = .ok a s ∧
    operandAddr (.absx a) s = .ok (BitVec.ofNat 16 (a.toNat + s.cpu.x.toNat)) s ∧
    operandAddr (.absy a) s = .ok (BitVec.ofNat 16 (a.toNat + s.cpu.y.toNat)) s ∧
    operandAddr (.indx z) s =
      .ok (BitVec.ofNat 16 ((s.ram.read ((z.toNat + s.cpu.x.toNat) % 256)).toNat +
        256 * (s.ram.read ((z.toNat + s.cpu.x.toNat + 1) % 256)).toNat)) s ∧
    operandAddr (.indy z) s =
      .ok (BitVec.ofNat 16 ((s.ram.read z.toNat).toNat + 256 * (s.ram.read ((z.toNat + 1) % 256)).toNat +
        s.cpu.y.toNat)) s

/-- The value of each mode: A, the immediate byte, or one read of the address (R174 to R184); an address in RAM or PRG-ROM reads
as the byte there and changes nothing. -/
def Obligations.OperandValuesOfTheModes : Prop :=
  ∀ s : State,
    operandValue .acc s = .ok s.cpu.a s ∧ (∀ v, operandValue (.imm v) s = .ok v s) ∧
    ∀ (o : Operand) (a : Addr) (t : State), modeHasValue o.mode = true → operandAddr o s = .ok a t →
      operandValue o s = busRead a t ∧ ∀ v, peek t a = some v → operandValue o s = .ok v t

/-! ## Loads, stores and transfers -/

/-- LDA, LDX and LDY (R200 to R202): the value goes to the register, Z and N are from it, and nothing else changes beyond what
the read did. -/
def Obligations.LoadsSetTheRegisterAndZN : Prop :=
  ∀ (i : Instr) (s : State),
    (i.mnemonic = .LDA → Spec.onValue i s fun v t => { t with cpu := { t.cpu with a := v, p := Spec.zn v t.cpu.p } }) ∧
    (i.mnemonic = .LDX → Spec.onValue i s fun v t => { t with cpu := { t.cpu with x := v, p := Spec.zn v t.cpu.p } }) ∧
    (i.mnemonic = .LDY → Spec.onValue i s fun v t => { t with cpu := { t.cpu with y := v, p := Spec.zn v t.cpu.p } })

/-- A read that faults ends the instruction there (R453), for each instruction that asks only for a value: the record names the
access, and no register, flag, memory or PPU register has changed. -/
def Obligations.AFaultingReadEndsTheInstruction : Prop :=
  ∀ (i : Instr) (s u : State), i.mnemonic ∈ Spec.valueReaders → operandValue i.operand s = .stopped u →
    exec i s = .next u ∧
    ∃ a f, operandAddr i.operand s = .ok a s ∧ u = Spec.faulted s f ∧
      (0x2000 ≤ a.toNat ∧ a.toNat < 0x4000 ∧ f = .ppuRegisterUndefined (ppuRegAt a) .read ∨
        0x4000 ≤ a.toNat ∧ a.toNat < 0x8000 ∧ f = .busUnmapped a .read)

/-- STA, STX and STY (R203 to R205): one write of the register to the address, which is never read; to RAM it changes one byte.
An address whose pointer cannot be read, or a write that faults, ends the instruction there. -/
def Obligations.StoresWriteTheRegisterOnce : Prop :=
  ∀ (i : Instr) (s t : State) (a : Addr) (v : Byte), operandAddr i.operand s = .ok a t →
    (i.mnemonic = .STA ∧ v = s.cpu.a ∨ i.mnemonic = .STX ∧ v = s.cpu.x ∨ i.mnemonic = .STY ∧ v = s.cpu.y) →
    (a.toNat < 0x2000 → exec i s = .next { t with ram := t.ram.write (a.toNat % 2048) v }) ∧
    Spec.endsWith (busWrite a v t) (exec i s)

/-- The transfers (R206 to R211): TXS alone writes no flag. -/
def Obligations.TransfersCopyTheRegister : Prop :=
  ∀ s : State,
    exec .tax s = .next { s with cpu := { s.cpu with x := s.cpu.a, p := Spec.zn s.cpu.a s.cpu.p } } ∧
    exec .tay s = .next { s with cpu := { s.cpu with y := s.cpu.a, p := Spec.zn s.cpu.a s.cpu.p } } ∧
    exec .txa s = .next { s with cpu := { s.cpu with a := s.cpu.x, p := Spec.zn s.cpu.x s.cpu.p } } ∧
    exec .tya s = .next { s with cpu := { s.cpu with a := s.cpu.y, p := Spec.zn s.cpu.y s.cpu.p } } ∧
    exec .tsx s = .next { s with cpu := { s.cpu with x := s.cpu.sp, p := Spec.zn s.cpu.sp s.cpu.p } } ∧
    exec .txs s = .next { s with cpu := { s.cpu with sp := s.cpu.x } }

/-! ## Arithmetic and logic -/

/-- ADC (R230): the 9-bit sum, its carry, and V from the sign bits. -/
def Obligations.AdcAddsWithCarry : Prop :=
  ∀ (i : Instr) (s : State), i.mnemonic = .ADC →
    Spec.onValue i s fun m t =>
      let sum := t.cpu.a.toNat + m.toNat + (if t.cpu.p.c then 1 else 0)
      let r : Byte := BitVec.ofNat 8 (sum % 256)
      { t with cpu := { t.cpu with
        a := r
        p := Spec.zn r { t.cpu.p with
          c := decide (sum > 255)
          v := decide (t.cpu.a.getLsbD 7 = m.getLsbD 7 ∧ r.getLsbD 7 ≠ m.getLsbD 7) } } }

/-- SBC (R231): A - m - (1 - C) mod 256; C is set exactly when there is no borrow; V by the rule's second form. -/
def Obligations.SbcSubtractsWithBorrow : Prop :=
  ∀ (i : Instr) (s : State), i.mnemonic = .SBC →
    Spec.onValue i s fun m t =>
      let borrow : Nat := if t.cpu.p.c then 0 else 1
      let r : Byte := BitVec.ofInt 8 ((t.cpu.a.toNat : Int) - m.toNat - borrow)
      { t with cpu := { t.cpu with
        a := r
        p := Spec.zn r { t.cpu.p with
          c := decide (m.toNat + borrow ≤ t.cpu.a.toNat)
          v := decide (t.cpu.a.getLsbD 7 ≠ m.getLsbD 7 ∧ r.getLsbD 7 ≠ t.cpu.a.getLsbD 7) } } }

/-- AND, ORA and EOR (R232 to R234). -/
def Obligations.LogicCombinesWithA : Prop :=
  ∀ (i : Instr) (s : State),
    let into (r : Byte) (t : State) : State := { t with cpu := { t.cpu with a := r, p := Spec.zn r t.cpu.p } }
    (i.mnemonic = .AND → Spec.onValue i s fun m t => into (t.cpu.a &&& m) t) ∧
    (i.mnemonic = .ORA → Spec.onValue i s fun m t => into (t.cpu.a ||| m) t) ∧
    (i.mnemonic = .EOR → Spec.onValue i s fun m t => into (t.cpu.a ^^^ m) t)

/-- CMP, CPX and CPY (R235 to R238): C when the difference is not negative, Z and N from its byte, and no register written. BIT
(R239): Z from the AND with A, N and V from bits 7 and 6 of the operand, nothing else. -/
def Obligations.ComparesAndBitSetOnlyFlags : Prop :=
  ∀ (i : Instr) (s : State),
    let compared (reg m : Byte) (t : State) : State :=
      let d : Int := (reg.toNat : Int) - m.toNat
      { t with cpu := { t.cpu with p := Spec.zn (BitVec.ofInt 8 d) { t.cpu.p with c := decide (0 ≤ d) } } }
    (i.mnemonic = .CMP → Spec.onValue i s fun m t => compared t.cpu.a m t) ∧
    (i.mnemonic = .CPX → Spec.onValue i s fun m t => compared t.cpu.x m t) ∧
    (i.mnemonic = .CPY → Spec.onValue i s fun m t => compared t.cpu.y m t) ∧
    (i.mnemonic = .BIT → Spec.onValue i s fun m t =>
      { t with cpu := { t.cpu with
        p := { t.cpu.p with z := decide (t.cpu.a &&& m = 0), n := m.getLsbD 7, v := m.getLsbD 6 } } })

/-- INC and DEC (R240, R241): one read, one write of the byte plus or minus 1 mod 256, then Z and N from it. In RAM that changes
one byte. Z and N stay as they were when the read or the write faults (log entry 15). -/
def Obligations.IncDecReadOnceAndWriteOnce : Prop :=
  ∀ (i : Instr) (s t : State) (a : Addr), operandAddr i.operand s = .ok a t →
    ∀ f : Byte → Byte,
      (i.mnemonic = .INC ∧ (∀ m, f m = BitVec.ofNat 8 (m.toNat + 1)) ∨
        i.mnemonic = .DEC ∧ ∀ m, f m = BitVec.ofNat 8 (m.toNat + 255)) →
      (∀ m, a.toNat < 0x2000 → m = t.ram.read (a.toNat % 2048) →
        exec i s = .next { t with
          ram := t.ram.write (a.toNat % 2048) (f m), cpu := { t.cpu with p := Spec.zn (f m) t.cpu.p } }) ∧
      (∀ m u w, busRead a t = .ok m u → busWrite a (f m) u = .ok () w →
        exec i s = .next { w with cpu := { w.cpu with p := Spec.zn (f m) w.cpu.p } }) ∧
      (∀ u, busRead a t = .stopped u → exec i s = .next u) ∧
      ∀ m u w, busRead a t = .ok m u → busWrite a (f m) u = .stopped w → exec i s = .next w

/-- INX, INY, DEX and DEY (R242 to R245). -/
def Obligations.IndexRegistersStepMod256 : Prop :=
  ∀ (s : State) (x1 y1 x0 y0 : Byte),
    x1 = BitVec.ofNat 8 (s.cpu.x.toNat + 1) → y1 = BitVec.ofNat 8 (s.cpu.y.toNat + 1) →
    x0 = BitVec.ofNat 8 (s.cpu.x.toNat + 255) → y0 = BitVec.ofNat 8 (s.cpu.y.toNat + 255) →
    exec .inx s = .next { s with cpu := { s.cpu with x := x1, p := Spec.zn x1 s.cpu.p } } ∧
    exec .iny s = .next { s with cpu := { s.cpu with y := y1, p := Spec.zn y1 s.cpu.p } } ∧
    exec .dex s = .next { s with cpu := { s.cpu with x := x0, p := Spec.zn x0 s.cpu.p } } ∧
    exec .dey s = .next { s with cpu := { s.cpu with y := y0, p := Spec.zn y0 s.cpu.p } }

/-! ## Shifts and rotates -/

/-- ASL, LSR, ROL and ROR (R270 to R274). In Accumulator mode A is replaced by the result with no bus access. In the memory modes
there is one read, then one write of the result to the same address; in RAM that changes one byte. Last come C, the bit moved
out, and Z and N from the result, so that a read or a write that faults leaves the flags as they were (R453). -/
def Obligations.ShiftsReadOnceAndWriteOnce : Prop :=
  ∀ (i : Instr) (s : State), i.mnemonic ∈ Spec.shifts →
    let f (m : Byte) : Byte := BitVec.ofNat 8 (Spec.shifted i.mnemonic m.toNat (if s.cpu.p.c then 1 else 0))
    let flags (m : Byte) (p : Flags) : Flags := Spec.zn (f m) { p with c := Spec.shiftedOut i.mnemonic m.toNat }
    (i.operand = .acc → exec i s = .next { s with cpu := { s.cpu with a := f s.cpu.a, p := flags s.cpu.a s.cpu.p } }) ∧
    ∀ (a : Addr) (t : State), operandAddr i.operand s = .ok a t →
      (∀ m, a.toNat < 0x2000 → m = t.ram.read (a.toNat % 2048) →
        exec i s = .next { t with
          ram := t.ram.write (a.toNat % 2048) (f m), cpu := { t.cpu with p := flags m t.cpu.p } }) ∧
      (∀ m u w, busRead a t = .ok m u → busWrite a (f m) u = .ok () w →
        exec i s = .next { w with cpu := { w.cpu with p := flags m w.cpu.p } }) ∧
      (∀ u, busRead a t = .stopped u → exec i s = .next u) ∧
      ∀ m u w, busRead a t = .ok m u → busWrite a (f m) u = .stopped w → exec i s = .next w

/-! ## Control flow -/

/-- The eight branches (R290 to R298): when the condition holds PC becomes PCn plus the signed offset mod 65536; otherwise, and
in everything but PC, the state stays as it is. -/
def Obligations.BranchesMovePcOnTheirCondition : Prop :=
  ∀ (s : State) (r : Byte),
    let taken : State := { s with cpu := { s.cpu with pc := BitVec.ofInt 16 ((s.cpu.pc.toNat : Int) + r.toInt) } }
    exec (.bcc r) s = .next (if s.cpu.p.c = false then taken else s) ∧
    exec (.bcs r) s = .next (if s.cpu.p.c = true then taken else s) ∧
    exec (.beq r) s = .next (if s.cpu.p.z = true then taken else s) ∧
    exec (.bne r) s = .next (if s.cpu.p.z = false then taken else s) ∧
    exec (.bmi r) s = .next (if s.cpu.p.n = true then taken else s) ∧
    exec (.bpl r) s = .next (if s.cpu.p.n = false then taken else s) ∧
    exec (.bvc r) s = .next (if s.cpu.p.v = false then taken else s) ∧
    exec (.bvs r) s = .next (if s.cpu.p.v = true then taken else s)

/-- JMP (R299, R182): to the operand word; or to the pointer, whose low byte is read first and whose high byte is read from the same
page. A pointer read that faults ends the instruction there. A pointer in RAM or PRG-ROM is read without side effect. -/
def Obligations.JmpGoesToItsTarget : Prop :=
  ∀ (s : State) (a a' : Addr), a' = (a &&& 0xFF00) ||| ((a + 1) &&& 0x00FF) →
    let target (lo hi : Byte) : Addr := BitVec.ofNat 16 (lo.toNat + 256 * hi.toNat)
    exec (.jmpAbs a) s = .next { s with cpu := { s.cpu with pc := a } } ∧
    (∀ lo hi t u, busRead a s = .ok lo t → busRead a' t = .ok hi u →
      exec (.jmpInd a) s = .next { u with cpu := { u.cpu with pc := target lo hi } }) ∧
    (∀ t, busRead a s = .stopped t → exec (.jmpInd a) s = .next t) ∧
    (∀ lo t u, busRead a s = .ok lo t → busRead a' t = .stopped u → exec (.jmpInd a) s = .next u) ∧
    ∀ lo hi, peek s a = some lo → peek s a' = some hi →
      exec (.jmpInd a) s = .next { s with cpu := { s.cpu with pc := target lo hi } }

/-- JSR (R300): PCn - 1 is pushed, high byte first, and PC is the operand word. RTS (R301): the word above SP, low byte first,
plus 1. -/
def Obligations.JsrAndRtsUseTheStack : Prop :=
  ∀ (s : State) (a ret : Addr) (lo hi : Byte), ret = BitVec.ofNat 16 (s.cpu.pc.toNat + 65535) →
    lo = s.ram.read (0x100 + (s.cpu.sp + 1).toNat) → hi = s.ram.read (0x100 + (s.cpu.sp + 2).toNat) →
    exec (.jsr a) s = .next { s with
      ram := (s.ram.write (0x100 + s.cpu.sp.toNat) (highByte ret)).write (0x100 + (s.cpu.sp - 1).toNat) (lowByte ret)
      cpu := { s.cpu with sp := s.cpu.sp - 2, pc := a } } ∧
    exec .rts s = .next { s with cpu := { s.cpu with
      sp := s.cpu.sp + 2, pc := BitVec.ofNat 16 (lo.toNat + 256 * hi.toNat + 1) } }

/-- A subroutine call and its return meet: RTS right after JSR restores SP and goes on at the instruction after the JSR, whatever
SP is (R300, R301, R37). -/
def Obligations.RtsUndoesJsr : Prop :=
  ∀ (s t : State) (a : Addr), exec (.jsr a) s = .next t →
    exec .rts t = .next { t with cpu := { t.cpu with sp := s.cpu.sp, pc := s.cpu.pc } }

/-- BRK (R302): the address of BRK plus 2 and the status byte with bit 4 set are pushed, I is set, and PC is the word at 0xFFFE.
RTI (R303): all seven flags from the byte pulled, then PC from the next two, with nothing added. -/
def Obligations.BrkEntersAndRtiReturns : Prop :=
  ∀ (s : State) (ret : Addr) (v lo hi : Byte), ret = s.cpu.pc + 1 →
    v = s.ram.read (0x100 + (s.cpu.sp + 1).toNat) → lo = s.ram.read (0x100 + (s.cpu.sp + 2).toNat) →
    hi = s.ram.read (0x100 + (s.cpu.sp + 3).toNat) →
    exec .brk s = .next { s with
      ram := ((s.ram.write (0x100 + s.cpu.sp.toNat) (highByte ret)).write (0x100 + (s.cpu.sp - 1).toNat) (lowByte ret)).write
        (0x100 + (s.cpu.sp - 2).toNat) (pack s.cpu.p true)
      cpu := { s.cpu with
        sp := s.cpu.sp - 3
        pc := word (prgByte s.params 0xFFFE) (prgByte s.params 0xFFFF)
        p := { s.cpu.p with i := true } } } ∧
    exec .rti s = .next { s with cpu := { s.cpu with
      sp := s.cpu.sp + 3
      pc := BitVec.ofNat 16 (lo.toNat + 256 * hi.toNat)
      p := { c := v.getLsbD 0, z := v.getLsbD 1, i := v.getLsbD 2, d := v.getLsbD 3, b := v.getLsbD 4, v := v.getLsbD 6,
             n := v.getLsbD 7 } } }

/-- An interrupt and its return meet, whatever SP is: RTI after BRK goes on at BRK plus 2 with the old flags and B = 1; RTI after
NMI entry goes on at the interrupted instruction with the old flags and B = 0 (R302, R303, R460, R462). -/
def Obligations.RtiUndoesInterruptEntry : Prop :=
  ∀ s t : State,
    (exec .brk s = .next t →
      exec .rti t = .next { t with cpu := { t.cpu with
        sp := s.cpu.sp, pc := s.cpu.pc + 1, p := { s.cpu.p with b := true } } }) ∧
    (nmiEntry s = .ok () t →
      exec .rti t = .next { t with cpu := { t.cpu with
        sp := s.cpu.sp, pc := s.cpu.pc, p := { s.cpu.p with b := false } } })

/-! ## Stack and status -/

/-- PHA, PHP, PLA and PLP (R320 to R323). -/
def Obligations.StackInstructionsMoveOneByte : Prop :=
  ∀ (s : State) (v : Byte), v = s.ram.read (0x100 + (s.cpu.sp + 1).toNat) →
    exec .pha s = .next { s with
      ram := s.ram.write (0x100 + s.cpu.sp.toNat) s.cpu.a, cpu := { s.cpu with sp := s.cpu.sp - 1 } } ∧
    exec .php s = .next { s with
      ram := s.ram.write (0x100 + s.cpu.sp.toNat) (pack s.cpu.p true), cpu := { s.cpu with sp := s.cpu.sp - 1 } } ∧
    exec .pla s = .next { s with cpu := { s.cpu with sp := s.cpu.sp + 1, a := v, p := Spec.zn v s.cpu.p } } ∧
    exec .plp s = .next { s with cpu := { s.cpu with sp := s.cpu.sp + 1, p := unpack v } }

/-- The status byte (R34): N V 1 b D I Z C from bit 7 down when packed; unpacked, bit 5 is dropped. -/
def Obligations.StatusByteLayout : Prop :=
  ∀ (p : Flags) (b : Bool),
    ((pack p b).getLsbD 7 = p.n ∧ (pack p b).getLsbD 6 = p.v ∧ (pack p b).getLsbD 5 = true ∧ (pack p b).getLsbD 4 = b ∧
      (pack p b).getLsbD 3 = p.d ∧ (pack p b).getLsbD 2 = p.i ∧ (pack p b).getLsbD 1 = p.z ∧ (pack p b).getLsbD 0 = p.c) ∧
    (∀ v w : Byte, (∀ k, k ≠ 5 → v.getLsbD k = w.getLsbD k) → unpack v = unpack w) ∧
    unpack (pack p b) = { p with b := b }

/-- The flag instructions and NOP (R324 to R331): one flag, or nothing. -/
def Obligations.FlagInstructionsChangeOneFlag : Prop :=
  ∀ s : State,
    exec .clc s = .next { s with cpu := { s.cpu with p := { s.cpu.p with c := false } } } ∧
    exec .cld s = .next { s with cpu := { s.cpu with p := { s.cpu.p with d := false } } } ∧
    exec .cli s = .next { s with cpu := { s.cpu with p := { s.cpu.p with i := false } } } ∧
    exec .clv s = .next { s with cpu := { s.cpu with p := { s.cpu.p with v := false } } } ∧
    exec .sec s = .next { s with cpu := { s.cpu with p := { s.cpu.p with c := true } } } ∧
    exec .sed s = .next { s with cpu := { s.cpu with p := { s.cpu.p with d := true } } } ∧
    exec .sei s = .next { s with cpu := { s.cpu with p := { s.cpu.p with i := true } } } ∧
    exec .nop s = .next s

/-! ## Frames -/

/-- A, X, Y, SP and PC change only in the instructions the rules name (R30 to R32), on a fault too. -/
def Obligations.OnlyTheListedInstructionsWriteARegister : Prop :=
  ∀ (i : Instr) (s t : State), exec i s = .next t →
    (i.mnemonic ∉ [Mnemonic.LDA, .ADC, .SBC, .AND, .ORA, .EOR, .TXA, .TYA, .PLA] →
      ¬(i.mnemonic ∈ Spec.shifts ∧ i.operand = .acc) → t.cpu.a = s.cpu.a) ∧
    (i.mnemonic ∉ [Mnemonic.LDX, .TAX, .TSX, .INX, .DEX] → t.cpu.x = s.cpu.x) ∧
    (i.mnemonic ∉ [Mnemonic.LDY, .TAY, .INY, .DEY] → t.cpu.y = s.cpu.y) ∧
    (i.mnemonic ∉ [Mnemonic.TXS, .PHA, .PHP, .PLA, .PLP, .JSR, .RTS, .BRK, .RTI] → t.cpu.sp = s.cpu.sp) ∧
    (i.mnemonic ∉ [Mnemonic.BCC, .BCS, .BEQ, .BNE, .BMI, .BPL, .BVC, .BVS, .JMP, .JSR, .RTS, .BRK, .RTI] →
      t.cpu.pc = s.cpu.pc)

/-- Each flag changes only in the instructions the table of R35 names. -/
def Obligations.OnlyTheListedInstructionsWriteAFlag : Prop :=
  ∀ (i : Instr) (s t : State), exec i s = .next t →
    (i.mnemonic ∉ [Mnemonic.ADC, .SBC, .CMP, .CPX, .CPY, .ASL, .LSR, .ROL, .ROR, .CLC, .SEC, .PLP, .RTI] →
      t.cpu.p.c = s.cpu.p.c) ∧
    (i.mnemonic ∉ [Mnemonic.LDA, .LDX, .LDY, .TAX, .TAY, .TXA, .TYA, .TSX, .ADC, .SBC, .AND, .ORA, .EOR, .CMP, .CPX, .CPY, .BIT,
        .INC, .DEC, .INX, .INY, .DEX, .DEY, .ASL, .LSR, .ROL, .ROR, .PLA, .PLP, .RTI] →
      t.cpu.p.z = s.cpu.p.z ∧ t.cpu.p.n = s.cpu.p.n) ∧
    (i.mnemonic ∉ [Mnemonic.SEI, .CLI, .PLP, .RTI, .BRK] → t.cpu.p.i = s.cpu.p.i) ∧
    (i.mnemonic ∉ [Mnemonic.SED, .CLD, .PLP, .RTI] → t.cpu.p.d = s.cpu.p.d) ∧
    (i.mnemonic ∉ [Mnemonic.PLP, .RTI] → t.cpu.p.b = s.cpu.p.b) ∧
    (i.mnemonic ∉ [Mnemonic.ADC, .SBC, .BIT, .CLV, .PLP, .RTI] → t.cpu.p.v = s.cpu.p.v)

/-- Every byte of RAM stays as it was but those an instruction stores to: the operand's address for the stores and the
read-modify-writes, the stack bytes for the pushes, none for anything else. -/
def Obligations.OnlyTheStoredBytesOfRamChange : Prop :=
  ∀ (i : Instr) (s t : State), exec i s = .next t →
    (i.mnemonic ∉ Spec.operandWriters → i.mnemonic ∉ Spec.pushers → ∀ k, t.ram.read k = s.ram.read k) ∧
    (i.mnemonic ∈ Spec.operandWriters → i.operand = .acc → ∀ k, t.ram.read k = s.ram.read k) ∧
    (i.mnemonic ∈ Spec.operandWriters → ∀ a u, operandAddr i.operand s = .ok a u →
      ∀ k, (a.toNat < 0x2000 → k ≠ a.toNat % 2048) → t.ram.read k = s.ram.read k) ∧
    (i.mnemonic ∈ [Mnemonic.PHA, .PHP] → ∀ k, k ≠ 0x100 + s.cpu.sp.toNat → t.ram.read k = s.ram.read k) ∧
    (i.mnemonic = .JSR → ∀ k, k ≠ 0x100 + s.cpu.sp.toNat → k ≠ 0x100 + (s.cpu.sp - 1).toNat →
      t.ram.read k = s.ram.read k) ∧
    (i.mnemonic = .BRK → ∀ k, k ≠ 0x100 + s.cpu.sp.toNat → k ≠ 0x100 + (s.cpu.sp - 1).toNat →
      k ≠ 0x100 + (s.cpu.sp - 2).toNat → t.ram.read k = s.ram.read k)

/-- No instruction touches the scanline engine, the layers, the framebuffer, the NMI flag or the parameters (R478, R479). PPU
memory changes only in an instruction that writes to its operand, and then only where the operand's address is in the PPU's
window or is 0x4014. PPU registers change only where that address is in the window or is 0x4014, and free bytes are drawn only
where it lies in 0x2000-0x7FFF; an instruction without an address changes none of them. -/
def Obligations.InstructionsReachThePpuOnlyThroughTheBus : Prop :=
  ∀ (i : Instr) (s t : State), exec i s = .next t →
    (t.scan = s.scan ∧ t.rend = s.rend ∧ t.nmiPending = s.nmiPending ∧ t.params = s.params ∧ t.report = s.report ∧
      t.published = s.published) ∧
    (i.mnemonic ∉ Spec.operandWriters → t.vmem = s.vmem) ∧
    (i.operand.mode ∈ [Mode.imp, .acc, .imm, .rel] ∨ i.mnemonic = .JSR →
      t.ppu = s.ppu ∧ t.vmem = s.vmem ∧ t.draws = s.draws) ∧
    ∀ a u, i.operand.mode ≠ .ind → operandAddr i.operand s = .ok a u →
      (a.toNat < 0x2000 ∨ 0x4000 ≤ a.toNat ∧ a ≠ 0x4014 → t.ppu = s.ppu ∧ t.vmem = s.vmem) ∧
      (a.toNat < 0x2000 ∨ 0x8000 ≤ a.toNat → t.draws = s.draws)

/-! ## The bus -/

/-- The bus router's reads (R83 to R89): RAM, the PPU window by address mod 8 with its five undefined directions, the unmapped
region by P_IO_POLICY, and PRG-ROM. -/
def Obligations.BusReadsAreRoutedByAddress : Prop :=
  ∀ (s : State) (a : Addr),
    (a.toNat < 0x2000 → busRead a s = .ok (s.ram.read (a.toNat % 2048)) s) ∧
    (0x2000 ≤ a.toNat → a.toNat < 0x4000 →
      busRead a s = busRead (BitVec.ofNat 16 (0x2000 + a.toNat % 8)) s ∧
      (a.toNat % 8 = 0 → busRead a s = .stopped (Spec.faulted s (.ppuRegisterUndefined .ctrl .read))) ∧
      (a.toNat % 8 = 1 → busRead a s = .stopped (Spec.faulted s (.ppuRegisterUndefined .mask .read))) ∧
      (a.toNat % 8 = 3 → busRead a s = .stopped (Spec.faulted s (.ppuRegisterUndefined .oamAddr .read))) ∧
      (a.toNat % 8 = 5 → busRead a s = .stopped (Spec.faulted s (.ppuRegisterUndefined .scroll .read))) ∧
      (a.toNat % 8 = 6 → busRead a s = .stopped (Spec.faulted s (.ppuRegisterUndefined .addr .read)))) ∧
    (0x4000 ≤ a.toNat → a.toNat < 0x8000 →
      (s.params.ioPolicy = .fault → busRead a s = .stopped (Spec.faulted s (.busUnmapped a .read))) ∧
      (s.params.ioPolicy = .stub → busRead a s = .ok (Config.draw s.draws) { s with draws := s.draws + 1 })) ∧
    (0x8000 ≤ a.toNat → busRead a s = .ok (s.params.prg.read ((a.toNat - 0x8000) % (16384 * s.params.prgUnits))) s)

/-- The bus router's writes (R83 to R90): RAM, the PPU window by address mod 8 with its undefined direction, the unmapped region
other than 0x4014, and PRG-ROM. -/
def Obligations.BusWritesAreRoutedByAddress : Prop :=
  ∀ (s : State) (a : Addr) (v : Byte),
    (a.toNat < 0x2000 → busWrite a v s = .ok () { s with ram := s.ram.write (a.toNat % 2048) v }) ∧
    (0x2000 ≤ a.toNat → a.toNat < 0x4000 →
      busWrite a v s = busWrite (BitVec.ofNat 16 (0x2000 + a.toNat % 8)) v s ∧
      (a.toNat % 8 = 2 → busWrite a v s = .stopped (Spec.faulted s (.ppuRegisterUndefined .status .write)))) ∧
    (0x4000 ≤ a.toNat → a.toNat < 0x8000 → a ≠ 0x4014 →
      (s.params.ioPolicy = .fault → busWrite a v s = .stopped (Spec.faulted s (.busUnmapped a .write))) ∧
      (s.params.ioPolicy = .stub → busWrite a v s = .ok () s)) ∧
    (0x8000 ≤ a.toNat →
      (s.params.romWrite = .ignore → busWrite a v s = .ok () s) ∧
      (s.params.romWrite = .fault → busWrite a v s = .stopped (Spec.faulted s (.romWrite a v))))

/-- A byte stored to RAM is read back, by data reads and by fetches, at every address that aliases it, and no other RAM byte
changes (R84, R123). -/
def Obligations.RamStoresAreSeenAtEveryAlias : Prop :=
  ∀ (s t : State) (a b : Addr) (v : Byte), a.toNat < 0x2000 → b.toNat < 0x2000 → busWrite a v s = .ok () t →
    (a.toNat % 2048 = b.toNat % 2048 → busRead b t = .ok v t ∧ peek t b = some v) ∧
    (a.toNat % 2048 ≠ b.toNat % 2048 → peek t b = peek s b)

/-- A write of `v` to 0x4014 (R87, R94, R110), for every page. A page of RAM or PRG-ROM is copied into OAM, byte for byte, and
nothing else changes. A page of the PPU's window faults at its first read, of PPUCTRL, and OAM is as it was (R453). A page of the
unmapped region follows P_IO_POLICY: the fault of its first read, or 256 free bytes, one drawn for each read in order (log
entry 5). -/
def Obligations.OamDmaCopiesThePage : Prop :=
  ∀ (s : State) (v : Byte),
    (v.toNat < 0x20 ∨ 0x80 ≤ v.toNat →
      ∃ oam : Memory,
        busWrite 0x4014 v s = .ok () { s with vmem := { s.vmem with oam := oam } } ∧
        ∀ i, i < 256 → peek s (BitVec.ofNat 16 (v.toNat * 256 + i)) = some (oam.read i)) ∧
    (0x20 ≤ v.toNat → v.toNat < 0x40 →
      busWrite 0x4014 v s = .stopped (Spec.faulted s (.ppuRegisterUndefined .ctrl .read))) ∧
    (0x40 ≤ v.toNat → v.toNat < 0x80 →
      (s.params.ioPolicy = .fault →
        busWrite 0x4014 v s = .stopped (Spec.faulted s (.busUnmapped (BitVec.ofNat 16 (v.toNat * 256)) .read))) ∧
      (s.params.ioPolicy = .stub →
        ∃ oam : Memory,
          busWrite 0x4014 v s = .ok () { s with vmem := { s.vmem with oam := oam }, draws := s.draws + 256 } ∧
          ∀ i, i < 256 → oam.read i = Config.draw (s.draws + i)))

/-! ## PPU memory and registers -/

/-- PPU memory below the palette (R100 to R105). A nametable write changes ciram alone. The byte is read back through every address
of the same physical byte: 0x3000-0x3EFF alias 0x2000-0x2EFF, and the mirroring mode folds the four tables onto two, by bit 10 of
the address under Vertical and by bit 11 under Horizontal. Every other PPU address reads as before. A pattern write follows
P_CHR_WRITE: under Store it changes chr alone, is read back, and every other PPU address reads as before; under Ignore nothing
changes, under Fault only the record does. -/
def Obligations.NametablesAreMirroredAndPatternsFollowThePolicy : Prop :=
  ∀ (s : State) (a : Addr) (v : Byte),
    let table (b : Addr) : Nat :=
      match s.params.mirroring with
      | .vertical => b.toNat / 0x400 % 2
      | .horizontal => b.toNat / 0x800 % 2
    (0x2000 ≤ a.toNat % 0x4000 → a.toNat % 0x4000 < 0x3F00 →
      ∃ m : Memory,
        let t : State := { s with vmem := { s.vmem with ciram := m } }
        ppuMemWrite a v s = .ok () t ∧
        ∀ b : Addr,
          if 0x2000 ≤ b.toNat % 0x4000 ∧ b.toNat % 0x4000 < 0x3F00 ∧ b.toNat % 0x400 = a.toNat % 0x400 ∧ table b = table a then
            ppuMemRead b t = v
          else ppuMemRead b t = ppuMemRead b s) ∧
    (a.toNat % 0x4000 < 0x2000 →
      (s.params.chrWrite = .ignore → ppuMemWrite a v s = .ok () s) ∧
      (s.params.chrWrite = .store →
        ∃ m : Memory,
          let t : State := { s with vmem := { s.vmem with chr := m } }
          ppuMemWrite a v s = .ok () t ∧
          ∀ b : Addr,
            if b.toNat % 0x4000 = a.toNat % 0x4000 then ppuMemRead b t = v else ppuMemRead b t = ppuMemRead b s) ∧
      (s.params.chrWrite = .fault →
        ppuMemWrite a v s = .stopped (Spec.faulted s (.chrWrite (BitVec.ofNat 14 a.toNat) v))))

/-- The palette's read and write adjustments (R106, R107), for the 32 slots and all their aliases. -/
def Obligations.PaletteAccessesAreAdjusted : Prop :=
  ∀ (s : State) (a : Addr) (v : Byte) (p : Nat), 0x3F00 ≤ a.toNat % 0x4000 → p = a.toNat % 32 →
    (p ∈ [0x04, 0x08, 0x0C] → ppuMemRead a s = s.vmem.pal.read 0x00) ∧
    (p ∈ [0x10, 0x14, 0x18, 0x1C] → s.params.palChain = false → ppuMemRead a s = s.vmem.pal.read (p - 0x10)) ∧
    (p ∈ [0x10, 0x14, 0x18, 0x1C] → s.params.palChain = true → ppuMemRead a s = s.vmem.pal.read 0x00) ∧
    (p ∉ [0x04, 0x08, 0x0C, 0x10, 0x14, 0x18, 0x1C] → ppuMemRead a s = s.vmem.pal.read p) ∧
    ppuMemWrite a v s = .ok () { s with vmem := { s.vmem with
      pal := s.vmem.pal.write (if p ∈ [0x10, 0x14, 0x18, 0x1C] then p - 0x10 else p) v } }

/-- No step changes a parameter, the PRG image among them (R51, R58), and none writes the palette slots 0x10, 0x14, 0x18 and 0x1C
(R108). -/
def Obligations.NoStepWritesTheImageOrTheMirrorSlots : Prop :=
  ∀ s t : State, step s = .next t →
    t.params = s.params ∧ ∀ k ∈ [0x10, 0x14, 0x18, 0x1C], t.vmem.pal.read k = s.vmem.pal.read k

/-- A read of PPUSTATUS (R352): VBL and S0 in bits 7 and 6, VBL cleared, and nothing else changed; its other six bits are free
(log entry 5), and the statement holds for every value of them. -/
def Obligations.StatusReadClearsVblOnly : Prop :=
  ∀ (s : State) (a : Addr), 0x2000 ≤ a.toNat → a.toNat < 0x4000 → a.toNat % 8 = 2 →
    ∃ v : Byte,
      busRead a s = .ok v { s with ppu := { s.ppu with vbl := false }, draws := s.draws + 1 } ∧
      v.getLsbD 7 = s.ppu.vbl ∧ v.getLsbD 6 = s.ppu.s0

/-- The two control bytes are stored whole (R350, R351); OAMADDR sets the cursor, an OAMDATA write stores there and moves it mod
256, and an OAMDATA read moves nothing (R353 to R355); PPUSCROLL and PPUADDR share one toggle that each write flips (R356,
R357). -/
def Obligations.PpuPortsWriteTheirRegisters : Prop :=
  ∀ (s : State) (v : Byte),
    busWrite 0x2000 v s = .ok () { s with ppu := { s.ppu with ctrl := v } } ∧
    busWrite 0x2001 v s = .ok () { s with ppu := { s.ppu with mask := v } } ∧
    busWrite 0x2003 v s = .ok () { s with ppu := { s.ppu with oamAddr := v } } ∧
    busWrite 0x2004 v s = .ok () { s with
      vmem := { s.vmem with oam := s.vmem.oam.write s.ppu.oamAddr.toNat v }
      ppu := { s.ppu with oamAddr := BitVec.ofNat 8 (s.ppu.oamAddr.toNat + 1) } } ∧
    busRead 0x2004 s = .ok (s.vmem.oam.read s.ppu.oamAddr.toNat) s ∧
    (s.ppu.w = .first →
      busWrite 0x2005 v s = .ok () { s with ppu := { s.ppu with scrollX := v, w := .second } } ∧
      busWrite 0x2006 v s = .ok () { s with ppu := { s.ppu with vramAddr := BitVec.ofNat 16 (v.toNat * 256), w := .second } }) ∧
    (s.ppu.w = .second →
      busWrite 0x2005 v s = .ok () { s with ppu := { s.ppu with scrollY := v, w := .first } } ∧
      busWrite 0x2006 v s = .ok () { s with ppu := { s.ppu with
        vramAddr := BitVec.ofNat 16 (s.ppu.vramAddr.toNat + v.toNat), w := .first } })

/-- PPUDATA (R358 to R360): a write stores at the pointer; a read below the palette gives the buffer and refills it, a palette
read is immediate and leaves the buffer; each moves the pointer by 1, or by 32 when PPUCTRL.INC is set. -/
def Obligations.DataPortIsBufferedBelowThePalette : Prop :=
  ∀ (s : State) (v : Byte) (next : Addr),
    next = BitVec.ofNat 16 (s.ppu.vramAddr.toNat + if s.ppu.ctrl.getLsbD 2 then 32 else 1) →
    (∀ t, ppuMemWrite s.ppu.vramAddr v s = .ok () t →
      busWrite 0x2007 v s = .ok () { t with ppu := { t.ppu with vramAddr := next } }) ∧
    (∀ t, ppuMemWrite s.ppu.vramAddr v s = .stopped t → busWrite 0x2007 v s = .stopped t) ∧
    (s.ppu.vramAddr.toNat % 0x4000 < 0x3F00 →
      busRead 0x2007 s = .ok s.ppu.readBuf { s with ppu := { s.ppu with
        readBuf := ppuMemRead s.ppu.vramAddr s, vramAddr := next } }) ∧
    (0x3F00 ≤ s.ppu.vramAddr.toNat % 0x4000 →
      busRead 0x2007 s = .ok (ppuMemRead s.ppu.vramAddr s) { s with ppu := { s.ppu with vramAddr := next } })

/-! ## The scanline engine -/

/-- Credits add up: a run on a + b credits is a run on a and then a run on b, with the frames of both (R380, R386). -/
def Obligations.RunIsAdditiveInItsCredits : Prop :=
  ∀ (s : State) (a b : Nat),
    run (a + b) s = ((run b (run a s).1).1, (run a s).2 + (run b (run a s).1).2)

/-- The frame cadence (R386): from line 0 with no credits left over, 341 x 263 credits complete exactly one frame and leave the
counters, VBL and S0 at zero and the layers empty; one credit less completes none; VBL is set from 341 x 241 credits on, and by
no fewer. -/
def Obligations.FrameCadence : Prop :=
  ∀ s : State, s.scan = { cycAcc := 0, line := 0, rowCursor := 0 } →
    ((run 89683 s).2 = 1 ∧ (run 89683 s).1.scan = { cycAcc := 0, line := 0, rowCursor := 0 } ∧
      (run 89683 s).1.ppu.vbl = false ∧ (run 89683 s).1.ppu.s0 = false ∧ (run 89683 s).1.rend.bg = [] ∧
      (run 89683 s).1.rend.behind = [] ∧ (run 89683 s).1.rend.front = []) ∧
    ((run 89682 s).2 = 0 ∧ (run 89682 s).1.scan = { cycAcc := 340, line := 262, rowCursor := 30 }) ∧
    (∀ n, n < 82181 → (run n s).1.ppu.vbl = s.ppu.vbl ∧ (run n s).1.nmiPending = s.nmiPending) ∧
    ∀ n, 82181 ≤ n → n < 89683 →
      (run n s).1.ppu.vbl = true ∧ (run n s).1.nmiPending = (s.nmiPending || s.ppu.ctrl.getLsbD 7)

/-- The phases of a line (R381, R384, R385). At line 241 VBL is set, the NMI is raised if NMIE is set, and nothing else happens;
the NMI is raised nowhere else (R457). From line 263 on the sprites are evaluated if SPE is set, then Composite runs, then VBL, S0,
the line and the cursor are cleared and one frame is reported. On every line before it VBL is not cleared, no frame is reported and
the line stays; S0 is only ever set, at a tile row with BGE and SPE set whose rows sprite 0's overlap (R394). On a line with none of
the three phases nothing happens. -/
def Obligations.LinePhasesSetAndClearTheFlags : Prop :=
  ∀ (s : State) (top h r : Nat), r = s.scan.rowCursor → top = (s.vmem.oam.read 0).toNat + s.params.spriteYOffset.val →
    h = (if s.ppu.ctrl.getLsbD 5 then 16 else 8) →
    (s.scan.line = 241 →
      linePhases s =
        ({ s with nmiPending := s.nmiPending || s.ppu.ctrl.getLsbD 7, ppu := { s.ppu with vbl := true } }, 0)) ∧
    (263 ≤ s.scan.line →
      let drawn := composite (if s.ppu.mask.getLsbD 4 then evaluateSprites s else s)
      linePhases s =
        ({ drawn with
          ppu := { s.ppu with vbl := false, s0 := false }
          scan := { s.scan with line := 0, rowCursor := 0 } }, 1)) ∧
    (s.scan.line < 263 → s.scan.line ≠ 241 →
      (linePhases s).2 = 0 ∧ (linePhases s).1.scan.line = s.scan.line ∧ (linePhases s).1.nmiPending = s.nmiPending ∧
      (linePhases s).1.ppu.vbl = s.ppu.vbl ∧
      (linePhases s).1.ppu.s0 = (s.ppu.s0 || decide (s.scan.line ≤ 240 ∧ s.scan.line % 8 = 0 ∧ s.ppu.mask.getLsbD 3 = true ∧
        s.ppu.mask.getLsbD 4 = true ∧ top < 8 * r + 8 ∧ top + h > 8 * r)) ∧
      (¬(s.scan.line ≤ 240 ∧ s.scan.line % 8 = 0) → linePhases s = (s, 0)))

/-- A tile-row boundary (R382, R390 to R394): the cursor moves; with BGE set, 32 background items are queued and S0 is set when
SPE is set too and sprite 0's rows overlap the row; with BGE clear nothing else changes. -/
def Obligations.TileRowQueuesTheBackground : Prop :=
  ∀ (s : State) (top h r : Nat), s.scan.line ≤ 240 → s.scan.line % 8 = 0 → r = s.scan.rowCursor →
    top = (s.vmem.oam.read 0).toNat + s.params.spriteYOffset.val → h = (if s.ppu.ctrl.getLsbD 5 then 16 else 8) →
    (s.ppu.mask.getLsbD 3 = false → (linePhases s).1 = { s with scan := { s.scan with rowCursor := r + 1 } }) ∧
    (s.ppu.mask.getLsbD 3 = true →
      (linePhases s).1 = { s with
        scan := { s.scan with rowCursor := r + 1 }
        rend := { s.rend with bg := s.rend.bg ++ (List.range 32).map (Spec.backgroundItem s r) }
        ppu := { s.ppu with
          s0 := s.ppu.s0 || (s.ppu.mask.getLsbD 4 && decide (top < 8 * r + 8 ∧ top + h > 8 * r)) } })

/-- Sprite evaluation (R396 to R399): each of the 64 entries queues its items, in ascending order, behind or in front of the
background by bit 5 of its attribute byte, and nothing else changes. -/
def Obligations.SpritesAreQueuedInOamOrder : Prop :=
  ∀ s : State,
    evaluateSprites s = { s with rend := { s.rend with
      behind := s.rend.behind ++ (List.finRange 64).flatMap (fun i =>
        if (s.vmem.oam.read (4 * i.val + 2)).getLsbD 5 then Spec.spriteItems s i else [])
      front := s.rend.front ++ (List.finRange 64).flatMap (fun i =>
        if (s.vmem.oam.read (4 * i.val + 2)).getLsbD 5 then [] else Spec.spriteItems s i) } }

/-! ## The compositor -/

/-- After Composite every framebuffer pixel of a logical pixel on the screen holds the colour of the first case of R422 that
applies: a front sprite, an opaque background, a behind sprite, the background's entry 0, or what it held before. Pattern values,
flips and colours are the formulas of R423 to R426. Nothing off the screen is written (R427). -/
def Obligations.CompositeGivesThePriorityColour : Prop :=
  ∀ s : State,
    (∀ px py i j : Nat, px < 256 → py < 240 → i < s.params.zoom → j < s.params.zoom →
      fbGet (composite s).rend.fb (px * s.params.zoom + i) (py * s.params.zoom + j) =
        priorityColour (Spec.itemValue s) (Spec.colour s) s.rend px py
          (fbGet s.rend.fb (px * s.params.zoom + i) (py * s.params.zoom + j))) ∧
    ∀ x y : Nat, 256 * s.params.zoom ≤ x ∨ 240 * s.params.zoom ≤ y →
      fbGet (composite s).rend.fb x y = fbGet s.rend.fb x y

/-- Composite empties the layers, publishes the whole framebuffer as one block, and changes nothing but the layers, the
framebuffer and the list of publications; with nothing queued the framebuffer stays as it was (R420, R428, R429, R436). -/
def Obligations.CompositeClearsTheLayersAndPublishes : Prop :=
  ∀ s : State,
    (∃ fb, composite s = { s with
      rend := { bg := [], behind := [], front := [], fb := fb }
      published := s.published ++ [{ x := 0, y := 0, w := 256 * s.params.zoom, h := 240 * s.params.zoom, pixels := fb }] }) ∧
    (s.rend.bg = [] → s.rend.behind = [] → s.rend.front = [] → (composite s).rend.fb = s.rend.fb)

/-- Every frame is published (R495, R429): a run hands the sink one block of the screen's size for each frame it reports, after
those handed over before, and the last of them shows the framebuffer the run leaves, which no run without a frame changes. A step
that reports Stepped has handed over as many blocks as it reports frames, and one that reports Faulted none. -/
def Obligations.EveryFrameIsPublished : Prop :=
  (∀ (s : State) (n : Nat),
    let r := run n s
    ∃ blocks : List Publication,
      r.1.published = s.published ++ blocks ∧ blocks.length = r.2 ∧
      (∀ p ∈ blocks, p.x = 0 ∧ p.y = 0 ∧ p.w = 256 * s.params.zoom ∧ p.h = 240 * s.params.zoom) ∧
      (∀ p, blocks.getLast? = some p → p.pixels = r.1.rend.fb) ∧
      (r.2 = 0 → r.1.rend.fb = s.rend.fb)) ∧
  ∀ s t : State, step s = .next t →
    (∃ c f, t.report = .stepped c f ∧ t.published.length = f ∧
      (∀ p ∈ t.published, p.x = 0 ∧ p.y = 0 ∧ p.w = 256 * s.params.zoom ∧ p.h = 240 * s.params.zoom) ∧
      (∀ p, t.published.getLast? = some p → p.pixels = t.rend.fb)) ∨
    (t.report = .faulted ∧ t.published = [])

/-! ## Timing -/

/-- The cost of every instruction (R520, R521): P_COST of the opcode, of whether its operand crosses a page (R186) and of whether
its branch is taken (R291 to R298), and 513 more for a write to 0x4014. An instruction that writes no operand, and a shift in
Accumulator mode, costs P_COST alone. Under the reference costs P_COST is the table of R520. Where these inputs are read, and P_COST
as data, are the model's (log entries 11 and 12). -/
def Obligations.BranchAndDmaCosts : Prop :=
  ∀ (i : Instr) (s : State) (p : Nat),
    p = instrCost s.params.cost i.opcode (Spec.crossed s i.operand) (Spec.taken i s.cpu.p) →
    (s.params.cost = .reference →
      p = Spec.referenceCost i.mnemonic i.operand.mode (Spec.crossed s i.operand) (Spec.taken i s.cpu.p)) ∧
    (∀ a t, i.mnemonic ∈ Spec.operandWriters → operandAddr i.operand s = .ok a t →
      cpuCost i s = p + if a = 0x4014 then 513 else 0) ∧
    (i.mnemonic ∉ Spec.operandWriters ∨ i.operand = .acc → cpuCost i s = p)

/-- A step completes more than one frame only on 89684 credits or more (R495). The reference costs never reach that with a ratio of
at most 172: then a step completes at most one frame, and it takes at least one cycle. -/
def Obligations.AStepCompletesAtMostOneFrame : Prop :=
  ∀ (s t : State) (c f : Nat), s.Inv → step s = .next t → t.report = .stepped c f →
    (2 ≤ f → 89684 ≤ c * s.params.ppuRatio) ∧
    (s.params.cost = .reference → 1 ≤ c ∧ (s.params.ppuRatio ≤ 172 → f ≤ 1))

/-! ## The end of a run -/

/-- The end of a run (R473), with the model's reading of its bytes (log entry 19). A run has at most one end. At the end no fault is
recorded and PC holds a JMP to itself, and no boundary before it is so. The machine does not stop there: the next step is taken and
records no fault; with no NMI pending it leaves the CPU and RAM as they are, at a self-jump again, and with one pending it goes to
the handler. -/
def Obligations.ARunEndsAtItsFirstSelfJump : Prop :=
  ∀ (k : Nat) (s t : State), EndOfRun k s t →
    (∀ k' t', EndOfRun k' s t' → k' = k ∧ t' = t) ∧
    (t.fault = none ∧ peek t t.cpu.pc = some 0x4C ∧
      ∃ lo hi : Byte, peek t (t.cpu.pc + 1) = some lo ∧ peek t (t.cpu.pc + 2) = some hi ∧
        lo.toNat + 256 * hi.toNat = t.cpu.pc.toNat) ∧
    ∃ u, step t = .next u ∧ u.fault = none ∧
      (t.nmiPending = false → u.cpu = t.cpu ∧ u.ram = t.ram ∧ SelfJumpBoundary u) ∧
      (t.nmiPending = true → u.cpu.pc = word (prgByte t.params 0xFFFA) (prgByte t.params 0xFFFB))
end

