-- ==== Sys2Proof/Laws/Bits.lean ====
section
/-! SUPPORT. The laws of the byte-order, extension and status-byte helpers: each as a number, and each round trip. -/

namespace Sys2Proof.Machine

@[simp] theorem lowByte_toNat (a : Addr) : (lowByte a).toNat = a.toNat % 256 := by simp [lowByte]

@[simp] theorem highByte_toNat (a : Addr) : (highByte a).toNat = a.toNat / 256 := by
  have := a.isLt
  simp [highByte, Nat.shiftRight_eq_div_pow]
  omega

@[simp] theorem word_toNat (lo hi : Byte) : (word lo hi).toNat = lo.toNat + 256 * hi.toNat := by
  have := lo.isLt
  rw [word, BitVec.toNat_append, ← Nat.shiftLeft_add_eq_or_of_lt this, Nat.shiftLeft_eq]
  omega

theorem word_eq_ofNat (lo hi : Byte) : word lo hi = BitVec.ofNat 16 (lo.toNat + 256 * hi.toNat) := by
  have := lo.isLt
  have := hi.isLt
  apply BitVec.eq_of_toNat_eq
  rw [word_toNat, BitVec.toNat_ofNat]
  omega

@[simp] theorem word_lowByte_highByte (a : Addr) : word (lowByte a) (highByte a) = a := by
  apply BitVec.eq_of_toNat_eq
  rw [word_toNat, lowByte_toNat, highByte_toNat]
  omega

@[simp] theorem lowByte_word (lo hi : Byte) : lowByte (word lo hi) = lo := by
  have := lo.isLt
  apply BitVec.eq_of_toNat_eq
  rw [lowByte_toNat, word_toNat]
  omega

@[simp] theorem highByte_word (lo hi : Byte) : highByte (word lo hi) = hi := by
  have := lo.isLt
  apply BitVec.eq_of_toNat_eq
  rw [highByte_toNat, word_toNat]
  omega

@[simp] theorem zext16_toNat (z : Byte) : (zext16 z).toNat = z.toNat := by
  have := z.isLt
  simp [zext16]
  omega

/-- Sign extension adds the byte as a signed number (00_scope.md R12). -/
theorem add_sext16 (a : Addr) (r : Byte) : a + sext16 r = BitVec.ofInt 16 ((a.toNat : Int) + r.toInt) := by
  rw [sext16, BitVec.signExtend, BitVec.ofInt_add, BitVec.ofInt_natCast, BitVec.ofNat_toNat, BitVec.setWidth_eq]

/-- A byte read as a number in two's complement has bit 7 set exactly from 128 up. -/
theorem bit7_eq (v : Byte) : bit v 7 = decide (128 ≤ v.toNat) := by
  have := v.isLt
  rw [bit, BitVec.getLsbD, Bool.eq_iff_iff]
  simp [Nat.testBit_eq_decide_div_mod_eq]
  omega

theorem zext16_eq_ofNat (z : Byte) : zext16 z = BitVec.ofNat 16 z.toNat := by
  apply BitVec.eq_of_toNat_eq
  rw [zext16_toNat, BitVec.toNat_ofNat]
  have := z.isLt
  omega

end Sys2Proof.Machine
end

