-- ==== Sys2Proof/Laws/Memory.lean ====
section
/-! SUPPORT. The laws of a memory: a read after a write to the same address gives the value written, a write leaves every other
address alone, and every operation keeps the canonical form and the size. -/

namespace Sys2Proof.Machine

/-! ## Sparse lists -/

@[simp] theorem sparseGet_set_same {α : Type} (m : List (Nat × α)) (a : Nat) (v : α) :
    sparseGet (sparseSet m a v) a = some v := by
  induction m with
  | nil => simp [sparseSet, sparseGet]
  | cons c rest ih =>
    obtain ⟨k, w⟩ := c
    by_cases h1 : a < k
    · simp [sparseSet, sparseGet, h1]
    · by_cases h2 : a = k
      · simp [sparseSet, sparseGet, h2]
      · simp [sparseSet, sparseGet, h1, h2, Ne.symm h2, ih]

theorem sparseGet_set_ne {α : Type} (m : List (Nat × α)) {a b : Nat} (v : α) (h : b ≠ a) :
    sparseGet (sparseSet m a v) b = sparseGet m b := by
  induction m with
  | nil => simp [sparseSet, sparseGet, Ne.symm h]
  | cons c rest ih =>
    obtain ⟨k, w⟩ := c
    by_cases h1 : a < k
    · simp [sparseSet, sparseGet, h1, Ne.symm h]
    · by_cases h2 : a = k
      · simp [sparseSet, sparseGet, ← h2, Ne.symm h]
      · simp only [sparseSet, h1, h2, if_false, sparseGet, ih]

@[simp] theorem sparseGet_erase_same {α : Type} (m : List (Nat × α)) (a : Nat) : sparseGet (sparseErase m a) a = none := by
  induction m with
  | nil => rfl
  | cons c rest ih =>
    obtain ⟨k, w⟩ := c
    by_cases h : k = a <;> simp [sparseErase, sparseGet, h, ih]

theorem sparseGet_erase_ne {α : Type} (m : List (Nat × α)) {a b : Nat} (h : b ≠ a) :
    sparseGet (sparseErase m a) b = sparseGet m b := by
  induction m with
  | nil => rfl
  | cons c rest ih =>
    obtain ⟨k, w⟩ := c
    by_cases h1 : k = a
    · subst h1
      simp [sparseErase, sparseGet, Ne.symm h, ih]
    · simp only [sparseErase, h1, if_false, sparseGet, ih]

/-- What a store leaves listed: what was listed, and the cell stored. -/
theorem mem_of_sparseGet {α : Type} {m : List (Nat × α)} {a : Nat} {v : α} (h : sparseGet m a = some v) : (a, v) ∈ m := by
  induction m with
  | nil => cases h
  | cons c m ih =>
    obtain ⟨k, w⟩ := c
    rw [sparseGet] at h
    split at h
    · cases h; subst k; exact List.mem_cons_self
    · exact List.mem_cons_of_mem _ (ih h)

theorem sparseSet_ne_nil {α : Type} (m : List (Nat × α)) (a : Nat) (v : α) : sparseSet m a v ≠ [] := by
  cases m with
  | nil => simp [sparseSet]
  | cons c m => obtain ⟨k, w⟩ := c; rw [sparseSet]; split_ifs <;> simp

theorem mem_sparseSet {α : Type} {m : List (Nat × α)} {a : Nat} {v : α} {c : Nat × α} (h : c ∈ sparseSet m a v) :
    c = (a, v) ∨ c ∈ m := by
  induction m with
  | nil => simpa [sparseSet] using h
  | cons d rest ih =>
    obtain ⟨k, w⟩ := d
    by_cases h1 : a < k
    · simpa [sparseSet, h1] using h
    · by_cases h2 : a = k
      · simp only [sparseSet, h2, lt_irrefl, if_false, if_true, List.mem_cons] at h
        rcases h with h | h
        · exact .inl (h2 ▸ h)
        · exact .inr (List.mem_cons_of_mem _ h)
      · simp only [sparseSet, h1, h2, if_false, List.mem_cons] at h
        rcases h with h | h
        · exact .inr (by simp [h])
        · rcases ih h with h | h
          · exact .inl h
          · exact .inr (List.mem_cons_of_mem _ h)

theorem mem_sparseErase {α : Type} {m : List (Nat × α)} {a : Nat} {c : Nat × α} (h : c ∈ sparseErase m a) : c ∈ m := by
  induction m with
  | nil => exact h
  | cons d rest ih =>
    obtain ⟨k, w⟩ := d
    by_cases h1 : k = a
    · simp only [sparseErase, h1, if_true] at h
      exact List.mem_cons_of_mem _ (ih h)
    · simp only [sparseErase, h1, if_false, List.mem_cons] at h
      rcases h with h | h
      · simp [h]
      · exact List.mem_cons_of_mem _ (ih h)

theorem sparseSet_sorted {α : Type} {m : List (Nat × α)} (a : Nat) (v : α) (h : sparseSorted m) :
    sparseSorted (sparseSet m a v) := by
  induction m with
  | nil => simp [sparseSet, sparseSorted]
  | cons d rest ih =>
    obtain ⟨k, w⟩ := d
    have hk : ∀ c ∈ rest, k < c.1 := (List.pairwise_cons.mp h).1
    have hr : sparseSorted rest := (List.pairwise_cons.mp h).2
    by_cases h1 : a < k
    · simp only [sparseSet, h1, if_true]
      refine List.pairwise_cons.mpr ⟨fun c hc => ?_, h⟩
      rcases List.mem_cons.mp hc with rfl | hc
      · exact h1
      · exact h1.trans (hk c hc)
    · by_cases h2 : a = k
      · simp only [sparseSet, h2, lt_irrefl, if_false, if_true]
        exact List.pairwise_cons.mpr ⟨hk, hr⟩
      · simp only [sparseSet, h1, h2, if_false]
        refine List.pairwise_cons.mpr ⟨fun c hc => ?_, ih hr⟩
        rcases mem_sparseSet hc with rfl | hc
        · exact lt_of_le_of_ne (Nat.le_of_not_lt h1) (Ne.symm h2)
        · exact hk c hc

theorem sparseErase_sorted {α : Type} {m : List (Nat × α)} (a : Nat) (h : sparseSorted m) : sparseSorted (sparseErase m a) := by
  induction m with
  | nil => exact h
  | cons d rest ih =>
    obtain ⟨k, w⟩ := d
    have hr := ih (List.pairwise_cons.mp h).2
    by_cases h1 : k = a
    · simpa only [sparseErase, h1, if_true] using hr
    · simp only [sparseErase, h1, if_false]
      exact List.pairwise_cons.mpr ⟨fun c hc => (List.pairwise_cons.mp h).1 c (mem_sparseErase hc), hr⟩

/-! ## Memories -/

@[simp] theorem Memory.read_write_same (m : Memory) (a : Nat) (v : Byte) : (m.write a v).read a = v := by
  unfold Memory.write Memory.read
  split
  · next h => simp [h]
  · simp

theorem Memory.read_write_ne (m : Memory) {a b : Nat} (v : Byte) (h : b ≠ a) : (m.write a v).read b = m.read b := by
  unfold Memory.write Memory.read
  split
  · rw [sparseGet_erase_ne m h]
  · rw [sparseGet_set_ne m v h]

/-- One byte after a write, at any address. -/
theorem Memory.read_write (m : Memory) (a b : Nat) (v : Byte) : (m.write a v).read b = if b = a then v else m.read b := by
  by_cases h : b = a
  · simp [h]
  · simp [h, Memory.read_write_ne m v h]

/-- A write keeps the canonical form. -/
theorem Memory.write_wf {m : Memory} (a : Nat) (v : Byte) (h : m.wf) : (m.write a v).wf := by
  unfold Memory.write
  split
  · exact ⟨sparseErase_sorted a h.1, fun c hc => h.2 c (mem_sparseErase hc)⟩
  · next hv =>
    refine ⟨sparseSet_sorted a v h.1, fun c hc => ?_⟩
    rcases mem_sparseSet hc with rfl | hc
    · exact hv
    · exact h.2 c hc

/-- A write below the size keeps the size. -/
theorem Memory.write_below {m : Memory} {a n : Nat} (v : Byte) (h : m.below n) (ha : a < n) : (m.write a v).below n := by
  unfold Memory.write
  split
  · exact fun c hc => h c (mem_sparseErase hc)
  · intro c hc
    rcases mem_sparseSet hc with rfl | hc
    · exact ha
    · exact h c hc

theorem Memory.writeList_wf {m : Memory} (a : Nat) (vs : List Byte) (h : m.wf) : (m.writeList a vs).wf := by
  induction vs generalizing m a with
  | nil => exact h
  | cons v vs ih => exact ih (a + 1) (Memory.write_wf a v h)

theorem Memory.writeList_below {m : Memory} {a n : Nat} (vs : List Byte) (h : m.below n) (ha : a + vs.length ≤ n) :
    (m.writeList a vs).below n := by
  induction vs generalizing m a with
  | nil => exact h
  | cons v vs ih =>
    simp only [List.length_cons] at ha
    exact ih (Memory.write_below v h (by omega)) (by omega)

/-- One byte after consecutive writes, at any address. -/
theorem Memory.read_writeList (m : Memory) (a b : Nat) (vs : List Byte) :
    (m.writeList a vs).read b = if a ≤ b then (vs[b - a]?).getD (m.read b) else m.read b := by
  induction vs generalizing m a with
  | nil => simp [Memory.writeList]
  | cons v vs ih =>
    rw [Memory.writeList, ih, Memory.read_write]
    by_cases h1 : b = a
    · subst h1
      simp
    · by_cases h2 : a ≤ b
      · obtain ⟨d, rfl⟩ : ∃ d, b = a + 1 + d := ⟨b - (a + 1), by omega⟩
        have h3 : a + 1 + d - a = d + 1 := by omega
        simp [h1, h3, show a ≤ a + 1 + d by omega]
      · simp [h1, h2, show ¬ a + 1 ≤ b by omega]

/-- A sparse list holds nothing below its lowest key. -/
theorem sparseGet_none_of_lt {α : Type} {m : List (Nat × α)} {a : Nat} (h : ∀ c ∈ m, a < c.1) : sparseGet m a = none := by
  induction m with
  | nil => rfl
  | cons d rest ih =>
    obtain ⟨k, w⟩ := d
    have hk : a < k := h (k, w) (by simp)
    simp only [sparseGet, Nat.ne_of_gt hk, if_false]
    exact ih (fun c hc => h c (List.mem_cons_of_mem _ hc))

end Sys2Proof.Machine
end

