-- ==== Sys2Proof/Laws/State.lean ====
section
/-! SUPPORT. One lemma per field per update of State, each true by rfl, so that no later proof unfolds a record update. -/

namespace Sys2Proof.Machine

variable (s : State)

/-! ### setA -/

@[simp] theorem State.setA_cpu_a (v : Byte) : (s.setA v).cpu.a = v := rfl
@[simp] theorem State.setA_cpu_x (v : Byte) : (s.setA v).cpu.x = s.cpu.x := rfl
@[simp] theorem State.setA_cpu_y (v : Byte) : (s.setA v).cpu.y = s.cpu.y := rfl
@[simp] theorem State.setA_cpu_sp (v : Byte) : (s.setA v).cpu.sp = s.cpu.sp := rfl
@[simp] theorem State.setA_cpu_pc (v : Byte) : (s.setA v).cpu.pc = s.cpu.pc := rfl
@[simp] theorem State.setA_cpu_p (v : Byte) : (s.setA v).cpu.p = s.cpu.p := rfl
@[simp] theorem State.setA_cpu_macroState (v : Byte) : (s.setA v).cpu.macroState = s.cpu.macroState := rfl
@[simp] theorem State.setA_ram (v : Byte) : (s.setA v).ram = s.ram := rfl
@[simp] theorem State.setA_nmiPending (v : Byte) : (s.setA v).nmiPending = s.nmiPending := rfl
@[simp] theorem State.setA_ppu (v : Byte) : (s.setA v).ppu = s.ppu := rfl
@[simp] theorem State.setA_scan (v : Byte) : (s.setA v).scan = s.scan := rfl
@[simp] theorem State.setA_vmem (v : Byte) : (s.setA v).vmem = s.vmem := rfl
@[simp] theorem State.setA_rend (v : Byte) : (s.setA v).rend = s.rend := rfl
@[simp] theorem State.setA_params (v : Byte) : (s.setA v).params = s.params := rfl
@[simp] theorem State.setA_draws (v : Byte) : (s.setA v).draws = s.draws := rfl
@[simp] theorem State.setA_report (v : Byte) : (s.setA v).report = s.report := rfl
@[simp] theorem State.setA_published (v : Byte) : (s.setA v).published = s.published := rfl
@[simp] theorem State.setA_fault (v : Byte) : (s.setA v).fault = s.fault := rfl

/-! ### setX -/

@[simp] theorem State.setX_cpu_a (v : Byte) : (s.setX v).cpu.a = s.cpu.a := rfl
@[simp] theorem State.setX_cpu_x (v : Byte) : (s.setX v).cpu.x = v := rfl
@[simp] theorem State.setX_cpu_y (v : Byte) : (s.setX v).cpu.y = s.cpu.y := rfl
@[simp] theorem State.setX_cpu_sp (v : Byte) : (s.setX v).cpu.sp = s.cpu.sp := rfl
@[simp] theorem State.setX_cpu_pc (v : Byte) : (s.setX v).cpu.pc = s.cpu.pc := rfl
@[simp] theorem State.setX_cpu_p (v : Byte) : (s.setX v).cpu.p = s.cpu.p := rfl
@[simp] theorem State.setX_cpu_macroState (v : Byte) : (s.setX v).cpu.macroState = s.cpu.macroState := rfl
@[simp] theorem State.setX_ram (v : Byte) : (s.setX v).ram = s.ram := rfl
@[simp] theorem State.setX_nmiPending (v : Byte) : (s.setX v).nmiPending = s.nmiPending := rfl
@[simp] theorem State.setX_ppu (v : Byte) : (s.setX v).ppu = s.ppu := rfl
@[simp] theorem State.setX_scan (v : Byte) : (s.setX v).scan = s.scan := rfl
@[simp] theorem State.setX_vmem (v : Byte) : (s.setX v).vmem = s.vmem := rfl
@[simp] theorem State.setX_rend (v : Byte) : (s.setX v).rend = s.rend := rfl
@[simp] theorem State.setX_params (v : Byte) : (s.setX v).params = s.params := rfl
@[simp] theorem State.setX_draws (v : Byte) : (s.setX v).draws = s.draws := rfl
@[simp] theorem State.setX_report (v : Byte) : (s.setX v).report = s.report := rfl
@[simp] theorem State.setX_published (v : Byte) : (s.setX v).published = s.published := rfl
@[simp] theorem State.setX_fault (v : Byte) : (s.setX v).fault = s.fault := rfl

/-! ### setY -/

@[simp] theorem State.setY_cpu_a (v : Byte) : (s.setY v).cpu.a = s.cpu.a := rfl
@[simp] theorem State.setY_cpu_x (v : Byte) : (s.setY v).cpu.x = s.cpu.x := rfl
@[simp] theorem State.setY_cpu_y (v : Byte) : (s.setY v).cpu.y = v := rfl
@[simp] theorem State.setY_cpu_sp (v : Byte) : (s.setY v).cpu.sp = s.cpu.sp := rfl
@[simp] theorem State.setY_cpu_pc (v : Byte) : (s.setY v).cpu.pc = s.cpu.pc := rfl
@[simp] theorem State.setY_cpu_p (v : Byte) : (s.setY v).cpu.p = s.cpu.p := rfl
@[simp] theorem State.setY_cpu_macroState (v : Byte) : (s.setY v).cpu.macroState = s.cpu.macroState := rfl
@[simp] theorem State.setY_ram (v : Byte) : (s.setY v).ram = s.ram := rfl
@[simp] theorem State.setY_nmiPending (v : Byte) : (s.setY v).nmiPending = s.nmiPending := rfl
@[simp] theorem State.setY_ppu (v : Byte) : (s.setY v).ppu = s.ppu := rfl
@[simp] theorem State.setY_scan (v : Byte) : (s.setY v).scan = s.scan := rfl
@[simp] theorem State.setY_vmem (v : Byte) : (s.setY v).vmem = s.vmem := rfl
@[simp] theorem State.setY_rend (v : Byte) : (s.setY v).rend = s.rend := rfl
@[simp] theorem State.setY_params (v : Byte) : (s.setY v).params = s.params := rfl
@[simp] theorem State.setY_draws (v : Byte) : (s.setY v).draws = s.draws := rfl
@[simp] theorem State.setY_report (v : Byte) : (s.setY v).report = s.report := rfl
@[simp] theorem State.setY_published (v : Byte) : (s.setY v).published = s.published := rfl
@[simp] theorem State.setY_fault (v : Byte) : (s.setY v).fault = s.fault := rfl

/-! ### setSp -/

@[simp] theorem State.setSp_cpu_a (v : Byte) : (s.setSp v).cpu.a = s.cpu.a := rfl
@[simp] theorem State.setSp_cpu_x (v : Byte) : (s.setSp v).cpu.x = s.cpu.x := rfl
@[simp] theorem State.setSp_cpu_y (v : Byte) : (s.setSp v).cpu.y = s.cpu.y := rfl
@[simp] theorem State.setSp_cpu_sp (v : Byte) : (s.setSp v).cpu.sp = v := rfl
@[simp] theorem State.setSp_cpu_pc (v : Byte) : (s.setSp v).cpu.pc = s.cpu.pc := rfl
@[simp] theorem State.setSp_cpu_p (v : Byte) : (s.setSp v).cpu.p = s.cpu.p := rfl
@[simp] theorem State.setSp_cpu_macroState (v : Byte) : (s.setSp v).cpu.macroState = s.cpu.macroState := rfl
@[simp] theorem State.setSp_ram (v : Byte) : (s.setSp v).ram = s.ram := rfl
@[simp] theorem State.setSp_nmiPending (v : Byte) : (s.setSp v).nmiPending = s.nmiPending := rfl
@[simp] theorem State.setSp_ppu (v : Byte) : (s.setSp v).ppu = s.ppu := rfl
@[simp] theorem State.setSp_scan (v : Byte) : (s.setSp v).scan = s.scan := rfl
@[simp] theorem State.setSp_vmem (v : Byte) : (s.setSp v).vmem = s.vmem := rfl
@[simp] theorem State.setSp_rend (v : Byte) : (s.setSp v).rend = s.rend := rfl
@[simp] theorem State.setSp_params (v : Byte) : (s.setSp v).params = s.params := rfl
@[simp] theorem State.setSp_draws (v : Byte) : (s.setSp v).draws = s.draws := rfl
@[simp] theorem State.setSp_report (v : Byte) : (s.setSp v).report = s.report := rfl
@[simp] theorem State.setSp_published (v : Byte) : (s.setSp v).published = s.published := rfl
@[simp] theorem State.setSp_fault (v : Byte) : (s.setSp v).fault = s.fault := rfl

/-! ### setPc -/

@[simp] theorem State.setPc_cpu_a (v : Addr) : (s.setPc v).cpu.a = s.cpu.a := rfl
@[simp] theorem State.setPc_cpu_x (v : Addr) : (s.setPc v).cpu.x = s.cpu.x := rfl
@[simp] theorem State.setPc_cpu_y (v : Addr) : (s.setPc v).cpu.y = s.cpu.y := rfl
@[simp] theorem State.setPc_cpu_sp (v : Addr) : (s.setPc v).cpu.sp = s.cpu.sp := rfl
@[simp] theorem State.setPc_cpu_pc (v : Addr) : (s.setPc v).cpu.pc = v := rfl
@[simp] theorem State.setPc_cpu_p (v : Addr) : (s.setPc v).cpu.p = s.cpu.p := rfl
@[simp] theorem State.setPc_cpu_macroState (v : Addr) : (s.setPc v).cpu.macroState = s.cpu.macroState := rfl
@[simp] theorem State.setPc_ram (v : Addr) : (s.setPc v).ram = s.ram := rfl
@[simp] theorem State.setPc_nmiPending (v : Addr) : (s.setPc v).nmiPending = s.nmiPending := rfl
@[simp] theorem State.setPc_ppu (v : Addr) : (s.setPc v).ppu = s.ppu := rfl
@[simp] theorem State.setPc_scan (v : Addr) : (s.setPc v).scan = s.scan := rfl
@[simp] theorem State.setPc_vmem (v : Addr) : (s.setPc v).vmem = s.vmem := rfl
@[simp] theorem State.setPc_rend (v : Addr) : (s.setPc v).rend = s.rend := rfl
@[simp] theorem State.setPc_params (v : Addr) : (s.setPc v).params = s.params := rfl
@[simp] theorem State.setPc_draws (v : Addr) : (s.setPc v).draws = s.draws := rfl
@[simp] theorem State.setPc_report (v : Addr) : (s.setPc v).report = s.report := rfl
@[simp] theorem State.setPc_published (v : Addr) : (s.setPc v).published = s.published := rfl
@[simp] theorem State.setPc_fault (v : Addr) : (s.setPc v).fault = s.fault := rfl

/-! ### setP -/

@[simp] theorem State.setP_cpu_a (v : Flags) : (s.setP v).cpu.a = s.cpu.a := rfl
@[simp] theorem State.setP_cpu_x (v : Flags) : (s.setP v).cpu.x = s.cpu.x := rfl
@[simp] theorem State.setP_cpu_y (v : Flags) : (s.setP v).cpu.y = s.cpu.y := rfl
@[simp] theorem State.setP_cpu_sp (v : Flags) : (s.setP v).cpu.sp = s.cpu.sp := rfl
@[simp] theorem State.setP_cpu_pc (v : Flags) : (s.setP v).cpu.pc = s.cpu.pc := rfl
@[simp] theorem State.setP_cpu_p (v : Flags) : (s.setP v).cpu.p = v := rfl
@[simp] theorem State.setP_cpu_macroState (v : Flags) : (s.setP v).cpu.macroState = s.cpu.macroState := rfl
@[simp] theorem State.setP_ram (v : Flags) : (s.setP v).ram = s.ram := rfl
@[simp] theorem State.setP_nmiPending (v : Flags) : (s.setP v).nmiPending = s.nmiPending := rfl
@[simp] theorem State.setP_ppu (v : Flags) : (s.setP v).ppu = s.ppu := rfl
@[simp] theorem State.setP_scan (v : Flags) : (s.setP v).scan = s.scan := rfl
@[simp] theorem State.setP_vmem (v : Flags) : (s.setP v).vmem = s.vmem := rfl
@[simp] theorem State.setP_rend (v : Flags) : (s.setP v).rend = s.rend := rfl
@[simp] theorem State.setP_params (v : Flags) : (s.setP v).params = s.params := rfl
@[simp] theorem State.setP_draws (v : Flags) : (s.setP v).draws = s.draws := rfl
@[simp] theorem State.setP_report (v : Flags) : (s.setP v).report = s.report := rfl
@[simp] theorem State.setP_published (v : Flags) : (s.setP v).published = s.published := rfl
@[simp] theorem State.setP_fault (v : Flags) : (s.setP v).fault = s.fault := rfl

/-! ### setMacro -/

@[simp] theorem State.setMacro_cpu_a (v : MacroState) : (s.setMacro v).cpu.a = s.cpu.a := rfl
@[simp] theorem State.setMacro_cpu_x (v : MacroState) : (s.setMacro v).cpu.x = s.cpu.x := rfl
@[simp] theorem State.setMacro_cpu_y (v : MacroState) : (s.setMacro v).cpu.y = s.cpu.y := rfl
@[simp] theorem State.setMacro_cpu_sp (v : MacroState) : (s.setMacro v).cpu.sp = s.cpu.sp := rfl
@[simp] theorem State.setMacro_cpu_pc (v : MacroState) : (s.setMacro v).cpu.pc = s.cpu.pc := rfl
@[simp] theorem State.setMacro_cpu_p (v : MacroState) : (s.setMacro v).cpu.p = s.cpu.p := rfl
@[simp] theorem State.setMacro_cpu_macroState (v : MacroState) : (s.setMacro v).cpu.macroState = v := rfl
@[simp] theorem State.setMacro_ram (v : MacroState) : (s.setMacro v).ram = s.ram := rfl
@[simp] theorem State.setMacro_nmiPending (v : MacroState) : (s.setMacro v).nmiPending = s.nmiPending := rfl
@[simp] theorem State.setMacro_ppu (v : MacroState) : (s.setMacro v).ppu = s.ppu := rfl
@[simp] theorem State.setMacro_scan (v : MacroState) : (s.setMacro v).scan = s.scan := rfl
@[simp] theorem State.setMacro_vmem (v : MacroState) : (s.setMacro v).vmem = s.vmem := rfl
@[simp] theorem State.setMacro_rend (v : MacroState) : (s.setMacro v).rend = s.rend := rfl
@[simp] theorem State.setMacro_params (v : MacroState) : (s.setMacro v).params = s.params := rfl
@[simp] theorem State.setMacro_draws (v : MacroState) : (s.setMacro v).draws = s.draws := rfl
@[simp] theorem State.setMacro_report (v : MacroState) : (s.setMacro v).report = s.report := rfl
@[simp] theorem State.setMacro_published (v : MacroState) : (s.setMacro v).published = s.published := rfl

/-! ### setRam -/

@[simp] theorem State.setRam_cpu (v : Memory) : (s.setRam v).cpu = s.cpu := rfl
@[simp] theorem State.setRam_ram (v : Memory) : (s.setRam v).ram = v := rfl
@[simp] theorem State.setRam_nmiPending (v : Memory) : (s.setRam v).nmiPending = s.nmiPending := rfl
@[simp] theorem State.setRam_ppu (v : Memory) : (s.setRam v).ppu = s.ppu := rfl
@[simp] theorem State.setRam_scan (v : Memory) : (s.setRam v).scan = s.scan := rfl
@[simp] theorem State.setRam_vmem (v : Memory) : (s.setRam v).vmem = s.vmem := rfl
@[simp] theorem State.setRam_rend (v : Memory) : (s.setRam v).rend = s.rend := rfl
@[simp] theorem State.setRam_params (v : Memory) : (s.setRam v).params = s.params := rfl
@[simp] theorem State.setRam_draws (v : Memory) : (s.setRam v).draws = s.draws := rfl
@[simp] theorem State.setRam_report (v : Memory) : (s.setRam v).report = s.report := rfl
@[simp] theorem State.setRam_published (v : Memory) : (s.setRam v).published = s.published := rfl
@[simp] theorem State.setRam_fault (v : Memory) : (s.setRam v).fault = s.fault := rfl

/-! ### setNmi -/

@[simp] theorem State.setNmi_cpu (v : Bool) : (s.setNmi v).cpu = s.cpu := rfl
@[simp] theorem State.setNmi_ram (v : Bool) : (s.setNmi v).ram = s.ram := rfl
@[simp] theorem State.setNmi_nmiPending (v : Bool) : (s.setNmi v).nmiPending = v := rfl
@[simp] theorem State.setNmi_ppu (v : Bool) : (s.setNmi v).ppu = s.ppu := rfl
@[simp] theorem State.setNmi_scan (v : Bool) : (s.setNmi v).scan = s.scan := rfl
@[simp] theorem State.setNmi_vmem (v : Bool) : (s.setNmi v).vmem = s.vmem := rfl
@[simp] theorem State.setNmi_rend (v : Bool) : (s.setNmi v).rend = s.rend := rfl
@[simp] theorem State.setNmi_params (v : Bool) : (s.setNmi v).params = s.params := rfl
@[simp] theorem State.setNmi_draws (v : Bool) : (s.setNmi v).draws = s.draws := rfl
@[simp] theorem State.setNmi_report (v : Bool) : (s.setNmi v).report = s.report := rfl
@[simp] theorem State.setNmi_published (v : Bool) : (s.setNmi v).published = s.published := rfl
@[simp] theorem State.setNmi_fault (v : Bool) : (s.setNmi v).fault = s.fault := rfl

/-! ### setPpu -/

@[simp] theorem State.setPpu_cpu (v : PpuRegs) : (s.setPpu v).cpu = s.cpu := rfl
@[simp] theorem State.setPpu_ram (v : PpuRegs) : (s.setPpu v).ram = s.ram := rfl
@[simp] theorem State.setPpu_nmiPending (v : PpuRegs) : (s.setPpu v).nmiPending = s.nmiPending := rfl
@[simp] theorem State.setPpu_ppu (v : PpuRegs) : (s.setPpu v).ppu = v := rfl
@[simp] theorem State.setPpu_scan (v : PpuRegs) : (s.setPpu v).scan = s.scan := rfl
@[simp] theorem State.setPpu_vmem (v : PpuRegs) : (s.setPpu v).vmem = s.vmem := rfl
@[simp] theorem State.setPpu_rend (v : PpuRegs) : (s.setPpu v).rend = s.rend := rfl
@[simp] theorem State.setPpu_params (v : PpuRegs) : (s.setPpu v).params = s.params := rfl
@[simp] theorem State.setPpu_draws (v : PpuRegs) : (s.setPpu v).draws = s.draws := rfl
@[simp] theorem State.setPpu_report (v : PpuRegs) : (s.setPpu v).report = s.report := rfl
@[simp] theorem State.setPpu_published (v : PpuRegs) : (s.setPpu v).published = s.published := rfl
@[simp] theorem State.setPpu_fault (v : PpuRegs) : (s.setPpu v).fault = s.fault := rfl

/-! ### setScan -/

@[simp] theorem State.setScan_cpu (v : Scanline) : (s.setScan v).cpu = s.cpu := rfl
@[simp] theorem State.setScan_ram (v : Scanline) : (s.setScan v).ram = s.ram := rfl
@[simp] theorem State.setScan_nmiPending (v : Scanline) : (s.setScan v).nmiPending = s.nmiPending := rfl
@[simp] theorem State.setScan_ppu (v : Scanline) : (s.setScan v).ppu = s.ppu := rfl
@[simp] theorem State.setScan_scan (v : Scanline) : (s.setScan v).scan = v := rfl
@[simp] theorem State.setScan_vmem (v : Scanline) : (s.setScan v).vmem = s.vmem := rfl
@[simp] theorem State.setScan_rend (v : Scanline) : (s.setScan v).rend = s.rend := rfl
@[simp] theorem State.setScan_params (v : Scanline) : (s.setScan v).params = s.params := rfl
@[simp] theorem State.setScan_draws (v : Scanline) : (s.setScan v).draws = s.draws := rfl
@[simp] theorem State.setScan_report (v : Scanline) : (s.setScan v).report = s.report := rfl
@[simp] theorem State.setScan_published (v : Scanline) : (s.setScan v).published = s.published := rfl
@[simp] theorem State.setScan_fault (v : Scanline) : (s.setScan v).fault = s.fault := rfl

/-! ### setVmem -/

@[simp] theorem State.setVmem_cpu (v : VideoMemory) : (s.setVmem v).cpu = s.cpu := rfl
@[simp] theorem State.setVmem_ram (v : VideoMemory) : (s.setVmem v).ram = s.ram := rfl
@[simp] theorem State.setVmem_nmiPending (v : VideoMemory) : (s.setVmem v).nmiPending = s.nmiPending := rfl
@[simp] theorem State.setVmem_ppu (v : VideoMemory) : (s.setVmem v).ppu = s.ppu := rfl
@[simp] theorem State.setVmem_scan (v : VideoMemory) : (s.setVmem v).scan = s.scan := rfl
@[simp] theorem State.setVmem_vmem (v : VideoMemory) : (s.setVmem v).vmem = v := rfl
@[simp] theorem State.setVmem_rend (v : VideoMemory) : (s.setVmem v).rend = s.rend := rfl
@[simp] theorem State.setVmem_params (v : VideoMemory) : (s.setVmem v).params = s.params := rfl
@[simp] theorem State.setVmem_draws (v : VideoMemory) : (s.setVmem v).draws = s.draws := rfl
@[simp] theorem State.setVmem_report (v : VideoMemory) : (s.setVmem v).report = s.report := rfl
@[simp] theorem State.setVmem_published (v : VideoMemory) : (s.setVmem v).published = s.published := rfl
@[simp] theorem State.setVmem_fault (v : VideoMemory) : (s.setVmem v).fault = s.fault := rfl

/-! ### setRend -/

@[simp] theorem State.setRend_cpu (v : Renderer) : (s.setRend v).cpu = s.cpu := rfl
@[simp] theorem State.setRend_ram (v : Renderer) : (s.setRend v).ram = s.ram := rfl
@[simp] theorem State.setRend_nmiPending (v : Renderer) : (s.setRend v).nmiPending = s.nmiPending := rfl
@[simp] theorem State.setRend_ppu (v : Renderer) : (s.setRend v).ppu = s.ppu := rfl
@[simp] theorem State.setRend_scan (v : Renderer) : (s.setRend v).scan = s.scan := rfl
@[simp] theorem State.setRend_vmem (v : Renderer) : (s.setRend v).vmem = s.vmem := rfl
@[simp] theorem State.setRend_rend (v : Renderer) : (s.setRend v).rend = v := rfl
@[simp] theorem State.setRend_params (v : Renderer) : (s.setRend v).params = s.params := rfl
@[simp] theorem State.setRend_draws (v : Renderer) : (s.setRend v).draws = s.draws := rfl
@[simp] theorem State.setRend_report (v : Renderer) : (s.setRend v).report = s.report := rfl
@[simp] theorem State.setRend_published (v : Renderer) : (s.setRend v).published = s.published := rfl
@[simp] theorem State.setRend_fault (v : Renderer) : (s.setRend v).fault = s.fault := rfl

/-! ### setParams -/

@[simp] theorem State.setParams_cpu (v : Params) : (s.setParams v).cpu = s.cpu := rfl
@[simp] theorem State.setParams_ram (v : Params) : (s.setParams v).ram = s.ram := rfl
@[simp] theorem State.setParams_nmiPending (v : Params) : (s.setParams v).nmiPending = s.nmiPending := rfl
@[simp] theorem State.setParams_ppu (v : Params) : (s.setParams v).ppu = s.ppu := rfl
@[simp] theorem State.setParams_scan (v : Params) : (s.setParams v).scan = s.scan := rfl
@[simp] theorem State.setParams_vmem (v : Params) : (s.setParams v).vmem = s.vmem := rfl
@[simp] theorem State.setParams_rend (v : Params) : (s.setParams v).rend = s.rend := rfl
@[simp] theorem State.setParams_params (v : Params) : (s.setParams v).params = v := rfl
@[simp] theorem State.setParams_draws (v : Params) : (s.setParams v).draws = s.draws := rfl
@[simp] theorem State.setParams_report (v : Params) : (s.setParams v).report = s.report := rfl
@[simp] theorem State.setParams_published (v : Params) : (s.setParams v).published = s.published := rfl
@[simp] theorem State.setParams_fault (v : Params) : (s.setParams v).fault = s.fault := rfl

/-! ### setDraws -/

@[simp] theorem State.setDraws_cpu (v : Nat) : (s.setDraws v).cpu = s.cpu := rfl
@[simp] theorem State.setDraws_ram (v : Nat) : (s.setDraws v).ram = s.ram := rfl
@[simp] theorem State.setDraws_nmiPending (v : Nat) : (s.setDraws v).nmiPending = s.nmiPending := rfl
@[simp] theorem State.setDraws_ppu (v : Nat) : (s.setDraws v).ppu = s.ppu := rfl
@[simp] theorem State.setDraws_scan (v : Nat) : (s.setDraws v).scan = s.scan := rfl
@[simp] theorem State.setDraws_vmem (v : Nat) : (s.setDraws v).vmem = s.vmem := rfl
@[simp] theorem State.setDraws_rend (v : Nat) : (s.setDraws v).rend = s.rend := rfl
@[simp] theorem State.setDraws_params (v : Nat) : (s.setDraws v).params = s.params := rfl
@[simp] theorem State.setDraws_draws (v : Nat) : (s.setDraws v).draws = v := rfl
@[simp] theorem State.setDraws_report (v : Nat) : (s.setDraws v).report = s.report := rfl
@[simp] theorem State.setDraws_published (v : Nat) : (s.setDraws v).published = s.published := rfl
@[simp] theorem State.setDraws_fault (v : Nat) : (s.setDraws v).fault = s.fault := rfl

/-! ### setReport -/

@[simp] theorem State.setReport_cpu (v : Report) : (s.setReport v).cpu = s.cpu := rfl
@[simp] theorem State.setReport_ram (v : Report) : (s.setReport v).ram = s.ram := rfl
@[simp] theorem State.setReport_nmiPending (v : Report) : (s.setReport v).nmiPending = s.nmiPending := rfl
@[simp] theorem State.setReport_ppu (v : Report) : (s.setReport v).ppu = s.ppu := rfl
@[simp] theorem State.setReport_scan (v : Report) : (s.setReport v).scan = s.scan := rfl
@[simp] theorem State.setReport_vmem (v : Report) : (s.setReport v).vmem = s.vmem := rfl
@[simp] theorem State.setReport_rend (v : Report) : (s.setReport v).rend = s.rend := rfl
@[simp] theorem State.setReport_params (v : Report) : (s.setReport v).params = s.params := rfl
@[simp] theorem State.setReport_draws (v : Report) : (s.setReport v).draws = s.draws := rfl
@[simp] theorem State.setReport_report (v : Report) : (s.setReport v).report = v := rfl
@[simp] theorem State.setReport_published (v : Report) : (s.setReport v).published = s.published := rfl
@[simp] theorem State.setReport_fault (v : Report) : (s.setReport v).fault = s.fault := rfl

/-! ### setPublished -/

@[simp] theorem State.setPublished_cpu (v : List Publication) : (s.setPublished v).cpu = s.cpu := rfl
@[simp] theorem State.setPublished_ram (v : List Publication) : (s.setPublished v).ram = s.ram := rfl
@[simp] theorem State.setPublished_nmiPending (v : List Publication) : (s.setPublished v).nmiPending = s.nmiPending := rfl
@[simp] theorem State.setPublished_ppu (v : List Publication) : (s.setPublished v).ppu = s.ppu := rfl
@[simp] theorem State.setPublished_scan (v : List Publication) : (s.setPublished v).scan = s.scan := rfl
@[simp] theorem State.setPublished_vmem (v : List Publication) : (s.setPublished v).vmem = s.vmem := rfl
@[simp] theorem State.setPublished_rend (v : List Publication) : (s.setPublished v).rend = s.rend := rfl
@[simp] theorem State.setPublished_params (v : List Publication) : (s.setPublished v).params = s.params := rfl
@[simp] theorem State.setPublished_draws (v : List Publication) : (s.setPublished v).draws = s.draws := rfl
@[simp] theorem State.setPublished_report (v : List Publication) : (s.setPublished v).report = s.report := rfl
@[simp] theorem State.setPublished_published (v : List Publication) : (s.setPublished v).published = v := rfl
@[simp] theorem State.setPublished_fault (v : List Publication) : (s.setPublished v).fault = s.fault := rfl

/-! ### setZN, the fault record, and the sequencing of parts -/

@[simp] theorem State.setZN_eq (v : Byte) : s.setZN v = s.setP (flagsZN v s.cpu.p) := rfl
@[simp] theorem State.setMacro_faulted_fault (f : Fault) : (s.setMacro (.faulted f)).fault = some f := rfl
@[simp] theorem State.setMacro_running_fault : (s.setMacro .running).fault = none := rfl
@[simp] theorem State.setMacro_servicing_fault : (s.setMacro .servicingInterrupt).fault = none := rfl

/-- A fault is recorded exactly in the macro-state faulted. -/
theorem State.fault_eq_some_iff (f : Fault) : s.fault = some f ↔ s.cpu.macroState = .faulted f := by
  unfold State.fault
  cases s.cpu.macroState <;> simp

@[simp] theorem Res.bind_ok {α β : Type} (a : α) (k : α → State → Res β) : (Res.ok a s).bind k = k a s := rfl
@[simp] theorem Res.bind_stopped {α β : Type} (k : α → State → Res β) : (Res.stopped s : Res α).bind k = .stopped s := rfl
@[simp] theorem finish_ok (u : Unit) : finish (.ok u s) = .next s := rfl
@[simp] theorem finish_stopped : finish (.stopped s) = .next s := rfl

/-- A sequence of parts goes on exactly when its first part does and the rest does. -/
theorem Res.bind_eq_ok {α β : Type} {r : Res α} {k : α → State → Res β} {b : β} {t : State} :
    r.bind k = .ok b t ↔ ∃ a u, r = .ok a u ∧ k a u = .ok b t := by
  cases r <;> simp

/-- A sequence of parts stops in its first part or in the rest. -/
theorem Res.bind_eq_stopped {α β : Type} {r : Res α} {k : α → State → Res β} {t : State} :
    r.bind k = .stopped t ↔ r = .stopped t ∨ ∃ a u, r = .ok a u ∧ k a u = .stopped t := by
  cases r <;> simp

/-- Raising a fault never goes on. -/
@[simp] theorem raise_ne_ok {α : Type} (f : Fault) (a : α) (t : State) : (raise f s : Res α) ≠ .ok a t := by simp [raise]

@[simp] theorem raise_eq_stopped {α : Type} (f : Fault) (t : State) :
    (raise f s : Res α) = .stopped t ↔ s.setMacro (.faulted f) = t := by simp [raise]

/-- A meaning always answers a next state. -/
theorem finish_eq_next (r : Res Unit) : ∃ t, finish r = .next t := by
  cases r <;> simp

/-- What a meaning answers is the state its last part left. -/
theorem finish_eq_next_iff {r : Res Unit} {t : State} : finish r = .next t ↔ r = .ok () t ∨ r = .stopped t := by
  cases r <;> simp

end Sys2Proof.Machine
end

