-- ==== Sys2Proof/Laws/Bus.lean ====
section
/-! SUPPORT. One lemma for each shared operation, which says once everything it can do: what a bus access, a stack access, an
operand and a fetch leave unchanged, whether they go on or raise a fault. -/

namespace Sys2Proof.Machine

/-! ## What no bus access changes -/

/-- The parts of the state no bus access touches: the scanline engine, the renderer, the NMI flag, the parameters and the outputs
(60_exceptions.md R478, R479). -/
structure SameEngine (s t : State) : Prop where
  nmiPending : t.nmiPending = s.nmiPending
  scan : t.scan = s.scan
  rend : t.rend = s.rend
  params : t.params = s.params
  report : t.report = s.report
  published : t.published = s.published

theorem SameEngine.refl (s : State) : SameEngine s s := ⟨rfl, rfl, rfl, rfl, rfl, rfl⟩

theorem SameEngine.trans {s t u : State} (h : SameEngine s t) (k : SameEngine t u) : SameEngine s u :=
  ⟨k.nmiPending.trans h.nmiPending, k.scan.trans h.scan, k.rend.trans h.rend, k.params.trans h.params,
    k.report.trans h.report, k.published.trans h.published⟩

/-- A part that stops has recorded a fault other than the two no program can raise, and done nothing else to the CPU. -/
def StoppedFrom (s t : State) : Prop :=
  ∃ f, t.cpu = { s.cpu with macroState := .faulted f } ∧ (∀ n, f ≠ .oamTransferSize n) ∧ ∀ m c, f ≠ .operandCapability m c

/-- What the fault record of a stopped part holds. -/
theorem StoppedFrom.fault_ne_none {s t : State} (h : StoppedFrom s t) : t.fault ≠ none := by
  obtain ⟨f, hf, -⟩ := h
  simp [State.fault, hf]

/-! ## Reads -/

/-- A PPU register read goes on with the CPU, RAM and PPU memory as they were. -/
theorem ppuRegRead_ok {r : PpuReg} {s t : State} {v : Byte} (h : ppuRegRead r s = .ok v t) :
    t.cpu = s.cpu ∧ t.ram = s.ram ∧ t.vmem = s.vmem ∧ SameEngine s t := by
  cases r <;> simp only [ppuRegRead, raise_ne_ok, readStatus, readData] at h
  · cases h
    exact ⟨rfl, rfl, rfl, rfl, rfl, rfl, rfl, rfl, rfl⟩
  · cases h
    exact ⟨rfl, rfl, rfl, SameEngine.refl _⟩
  · split at h <;> cases h <;> exact ⟨rfl, rfl, rfl, rfl, rfl, rfl, rfl, rfl, rfl⟩

/-- A PPU register read stops only by recording its fault, and changes nothing else. -/
theorem ppuRegRead_stopped {r : PpuReg} {s t : State} (h : ppuRegRead r s = .stopped t) :
    t = s.setMacro (.faulted (.ppuRegisterUndefined r .read)) := by
  cases r <;> simp only [ppuRegRead, raise_eq_stopped, readStatus, readData, reduceCtorEq] at h <;>
    first
    | exact h.symm
    | (split at h <;> cases h)

/-- A bus read goes on with the CPU, RAM and PPU memory as they were (20_memory.md R92). -/
theorem busRead_ok {a : Addr} {s t : State} {v : Byte} (h : busRead a s = .ok v t) :
    t.cpu = s.cpu ∧ t.ram = s.ram ∧ t.vmem = s.vmem ∧ SameEngine s t := by
  unfold busRead at h
  split at h
  · cases h
    exact ⟨rfl, rfl, rfl, SameEngine.refl _⟩
  split at h
  · exact ppuRegRead_ok h
  split at h
  · unfold ioRead at h
    split at h
    · simp at h
    · cases h
      exact ⟨rfl, rfl, rfl, rfl, rfl, rfl, rfl, rfl, rfl⟩
  · cases h
    exact ⟨rfl, rfl, rfl, SameEngine.refl _⟩

/-- A bus read stops only by recording a fault, and changes nothing else. -/
theorem busRead_stopped {a : Addr} {s t : State} (h : busRead a s = .stopped t) :
    ∃ f, t = s.setMacro (.faulted f) ∧ (f = .busUnmapped a .read ∨ f = .ppuRegisterUndefined (ppuRegAt a) .read) := by
  unfold busRead at h
  split at h
  · cases h
  split at h
  · exact ⟨_, ppuRegRead_stopped h, .inr rfl⟩
  split at h
  · unfold ioRead at h
    split at h
    · exact ⟨_, ((raise_eq_stopped _ _ _).mp h).symm, .inl rfl⟩
    · cases h
  · cases h

/-- A stopped bus read, in the general form. -/
theorem busRead_stoppedFrom {a : Addr} {s t : State} (h : busRead a s = .stopped t) :
    StoppedFrom s t ∧ t.ram = s.ram ∧ t.vmem = s.vmem ∧ SameEngine s t := by
  obtain ⟨f, rfl, hf⟩ := busRead_stopped h
  refine ⟨⟨f, rfl, ?_, ?_⟩, rfl, rfl, ⟨rfl, rfl, rfl, rfl, rfl, rfl⟩⟩ <;> rcases hf with rfl | rfl <;> simp

/-- RAM is read without a side effect (R84). -/
@[simp] theorem busRead_ram {a : Addr} (s : State) (h : a.toNat < 0x2000) :
    busRead a s = .ok (s.ram.read (a.toNat % Config.ramSize)) s := by simp [busRead, h]

/-- PRG-ROM is read without a side effect (R89). -/
theorem busRead_prg {a : Addr} (s : State) (h : 0x8000 ≤ a.toNat) : busRead a s = .ok (prgByte s.params a) s := by
  simp [busRead, show ¬ a.toNat < 0x2000 by omega, show ¬ a.toNat < 0x4000 by omega, show ¬ a.toNat < 0x8000 by omega]

/-- An address that can be peeked is read as that byte, with no side effect. -/
theorem busRead_of_peek {a : Addr} {s : State} {v : Byte} (h : peek s a = some v) : busRead a s = .ok v s := by
  unfold peek at h
  split at h
  · next h1 => cases h; exact busRead_ram s h1
  · split at h
    · cases h
    · next h1 => cases h; exact busRead_prg s (by omega)

/-- Consecutive bus reads go on with the CPU, RAM and PPU memory as they were, and give as many bytes as asked for. -/
theorem readBlock_ok {n : Nat} {a : Addr} {s t : State} {vs : List Byte} (h : readBlock n a s = .ok vs t) :
    vs.length = n ∧ t.cpu = s.cpu ∧ t.ram = s.ram ∧ t.vmem = s.vmem ∧ SameEngine s t := by
  induction n generalizing a s vs with
  | zero =>
    cases h
    exact ⟨rfl, rfl, rfl, rfl, SameEngine.refl _⟩
  | succ n ih =>
    simp only [readBlock, Res.bind_eq_ok] at h
    obtain ⟨v, u, h1, ws, u', h2, h3⟩ := h
    cases h3
    obtain ⟨e1, e2, e3, e4⟩ := busRead_ok h1
    obtain ⟨f0, f1, f2, f3, f4⟩ := ih h2
    exact ⟨by simp [f0], f1.trans e1, f2.trans e2, f3.trans e3, e4.trans f4⟩

/-- Consecutive bus reads stop only where one of them does. -/
theorem readBlock_stopped {n : Nat} {a : Addr} {s t : State} (h : readBlock n a s = .stopped t) :
    StoppedFrom s t ∧ t.ram = s.ram ∧ t.vmem = s.vmem ∧ SameEngine s t := by
  induction n generalizing a s with
  | zero => cases h
  | succ n ih =>
    simp only [readBlock, Res.bind_eq_stopped] at h
    rcases h with h | ⟨v, u, h1, h | ⟨_, _, _, h⟩⟩
    · exact busRead_stoppedFrom h
    · obtain ⟨e1, e2, e3, e4⟩ := busRead_ok h1
      obtain ⟨⟨f, hf, k⟩, f2, f3, f4⟩ := ih h
      exact ⟨⟨f, by rw [hf, e1], k⟩, f2.trans e2, f3.trans e3, e4.trans f4⟩
    · cases h

/-! ## Writes -/

/-- A PPU register write goes on with the CPU and RAM as they were. -/
theorem ppuRegWrite_ok {r : PpuReg} {v : Byte} {s t : State} (h : ppuRegWrite r v s = .ok () t) :
    t.cpu = s.cpu ∧ t.ram = s.ram ∧ SameEngine s t := by
  cases r <;> simp only [ppuRegWrite, raise_ne_ok, Res.ok.injEq, true_and] at h
  · subst h; exact ⟨rfl, rfl, rfl, rfl, rfl, rfl, rfl, rfl⟩
  · subst h; exact ⟨rfl, rfl, rfl, rfl, rfl, rfl, rfl, rfl⟩
  · subst h; exact ⟨rfl, rfl, rfl, rfl, rfl, rfl, rfl, rfl⟩
  · subst h; exact ⟨rfl, rfl, rfl, rfl, rfl, rfl, rfl, rfl⟩
  · subst h; unfold writeScroll; split <;> exact ⟨rfl, rfl, rfl, rfl, rfl, rfl, rfl, rfl⟩
  · subst h; unfold writeAddr; split <;> exact ⟨rfl, rfl, rfl, rfl, rfl, rfl, rfl, rfl⟩
  · unfold writeData ppuMemWrite chrMemWrite at h
    simp only [Res.bind_eq_ok] at h
    obtain ⟨_, u, h1, h2⟩ := h
    cases h2
    split at h1
    · split at h1
      · cases h1; exact ⟨rfl, rfl, rfl, rfl, rfl, rfl, rfl, rfl⟩
      · cases h1; exact ⟨rfl, rfl, rfl, rfl, rfl, rfl, rfl, rfl⟩
      · simp at h1
    · split at h1 <;> cases h1 <;> exact ⟨rfl, rfl, rfl, rfl, rfl, rfl, rfl, rfl⟩

/-- A PPU register write stops only by recording its fault, and changes nothing else. -/
theorem ppuRegWrite_stopped {r : PpuReg} {v : Byte} {s t : State} (h : ppuRegWrite r v s = .stopped t) :
    ∃ f, t = s.setMacro (.faulted f) ∧
      (f = .ppuRegisterUndefined .status .write ∨ f = .chrWrite (BitVec.ofNat 14 (ppuAddress s.ppu.vramAddr)) v) := by
  cases r <;> simp only [ppuRegWrite, raise_eq_stopped, reduceCtorEq] at h
  · exact ⟨_, h.symm, .inl rfl⟩
  · unfold writeData ppuMemWrite chrMemWrite at h
    simp only [Res.bind_eq_stopped] at h
    rcases h with h | ⟨_, _, _, h⟩
    · split at h
      · split at h
        · cases h
        · cases h
        · exact ⟨_, ((raise_eq_stopped _ _ _).mp h).symm, .inr rfl⟩
      · split at h <;> cases h
    · cases h

/-- An OAM transfer of 256 bytes goes on. -/
theorem oamTransfer_256 {buf : List Byte} (s : State) (h : buf.length = 256) :
    oamTransfer buf s = .ok () (s.setVmem { s.vmem with oam := s.vmem.oam.writeList 0 buf }) := by
  simp [oamTransfer, Config.oamSize, h]

/-- OAM DMA goes on with the CPU and RAM as they were. -/
theorem oamDma_ok {v : Byte} {s t : State} (h : oamDma v s = .ok () t) : t.cpu = s.cpu ∧ t.ram = s.ram ∧ SameEngine s t := by
  simp only [oamDma, Res.bind_eq_ok] at h
  obtain ⟨vs, u, h1, h2⟩ := h
  obtain ⟨e0, e1, e2, -, e4⟩ := readBlock_ok h1
  rw [oamTransfer_256 u e0] at h2
  cases h2
  exact ⟨e1, e2, e4.trans ⟨rfl, rfl, rfl, rfl, rfl, rfl⟩⟩

/-- OAM DMA stops only where one of its reads does, and OAM is then unchanged (R94, R453). -/
theorem oamDma_stopped {v : Byte} {s t : State} (h : oamDma v s = .stopped t) :
    StoppedFrom s t ∧ t.ram = s.ram ∧ t.vmem = s.vmem ∧ SameEngine s t := by
  simp only [oamDma, Res.bind_eq_stopped] at h
  rcases h with h | ⟨vs, u, h1, h2⟩
  · exact readBlock_stopped h
  · rw [oamTransfer_256 u (readBlock_ok h1).1] at h2
    cases h2

/-- A bus write goes on with the CPU as it was; RAM changes only for an address below 0x2000. -/
theorem busWrite_ok {a : Addr} {v : Byte} {s t : State} (h : busWrite a v s = .ok () t) :
    t.cpu = s.cpu ∧ SameEngine s t ∧
      t.ram = if a.toNat < 0x2000 then s.ram.write (a.toNat % Config.ramSize) v else s.ram := by
  unfold busWrite at h
  split at h
  · next h1 => cases h; exact ⟨rfl, ⟨rfl, rfl, rfl, rfl, rfl, rfl⟩, by simp [h1]⟩
  next h1 =>
  simp only [h1, if_false]
  split at h
  · obtain ⟨e1, e2, e3⟩ := ppuRegWrite_ok h
    exact ⟨e1, e3, e2⟩
  split at h
  · obtain ⟨e1, e2, e3⟩ := oamDma_ok h
    exact ⟨e1, e3, e2⟩
  split at h
  · unfold ioWrite at h
    split at h
    · simp at h
    · cases h; exact ⟨rfl, SameEngine.refl _, rfl⟩
  · unfold romWrite at h
    split at h
    · cases h; exact ⟨rfl, SameEngine.refl _, rfl⟩
    · simp at h

/-- A bus write stops only by recording a fault; RAM is unchanged. -/
theorem busWrite_stopped {a : Addr} {v : Byte} {s t : State} (h : busWrite a v s = .stopped t) :
    StoppedFrom s t ∧ t.ram = s.ram ∧ t.vmem = s.vmem ∧ SameEngine s t := by
  unfold busWrite at h
  split at h
  · cases h
  split at h
  · obtain ⟨f, rfl, hf⟩ := ppuRegWrite_stopped h
    refine ⟨⟨f, rfl, ?_, ?_⟩, rfl, rfl, ⟨rfl, rfl, rfl, rfl, rfl, rfl⟩⟩ <;> rcases hf with rfl | rfl <;> simp
  split at h
  · exact oamDma_stopped h
  split at h
  · unfold ioWrite at h
    split at h
    · obtain rfl := (raise_eq_stopped _ _ _).mp h
      exact ⟨⟨_, rfl, by simp, by simp⟩, rfl, rfl, ⟨rfl, rfl, rfl, rfl, rfl, rfl⟩⟩
    · cases h
  · unfold romWrite at h
    split at h
    · cases h
    · obtain rfl := (raise_eq_stopped _ _ _).mp h
      exact ⟨⟨_, rfl, by simp, by simp⟩, rfl, rfl, ⟨rfl, rfl, rfl, rfl, rfl, rfl⟩⟩

/-- A write to RAM does only that (R84). -/
@[simp] theorem busWrite_ram {a : Addr} (v : Byte) (s : State) (h : a.toNat < 0x2000) :
    busWrite a v s = .ok () (s.setRam (s.ram.write (a.toNat % Config.ramSize) v)) := by simp [busWrite, h]

/-! ## The stack -/

/-- The stack never leaves page 1 (10_state.md R31). -/
theorem stackAddr_toNat (sp : Byte) : (stackAddr sp).toNat = 0x100 + sp.toNat := by
  simp only [stackAddr, Config.stackPage, zext16]
  have := sp.isLt
  simp only [BitVec.toNat_add, BitVec.toNat_setWidth, BitVec.toNat_ofNat]
  omega

theorem stackAddr_lt (sp : Byte) : (stackAddr sp).toNat < 0x2000 := by
  have := sp.isLt
  rw [stackAddr_toNat]
  omega

/-- The RAM index of a stack byte. -/
theorem stackAddr_index (sp : Byte) : (stackAddr sp).toNat % Config.ramSize = 0x100 + sp.toNat := by
  have := sp.isLt
  rw [stackAddr_toNat, Config.ramSize]
  omega

/-- A push writes one byte of RAM and moves SP down; it never faults (R36). -/
@[simp] theorem push_eq (v : Byte) (s : State) :
    push v s = .ok () ((s.setRam (s.ram.write (0x100 + s.cpu.sp.toNat) v)).setSp (s.cpu.sp - 1)) := by
  simp [push, busWrite_ram v s (stackAddr_lt _), stackAddr_index]

/-- A pull moves SP up and reads one byte of RAM; it never faults (R36). -/
@[simp] theorem pull_eq (s : State) :
    pull s = .ok (s.ram.read (0x100 + (s.cpu.sp + 1).toNat)) (s.setSp (s.cpu.sp + 1)) := by
  simp [pull, busRead_ram _ (stackAddr_lt _), stackAddr_index]

/-- SP after two bytes. -/
theorem byte_sub_one_one (b : Byte) : b - 1 - 1 = b - 2 := by bv_omega

theorem byte_sub_two_one (b : Byte) : b - 2 - 1 = b - 3 := by bv_omega

theorem byte_add_one_one (b : Byte) : b + 1 + 1 = b + 2 := by bv_omega

theorem byte_add_two_one (b : Byte) : b + 2 + 1 = b + 3 := by bv_omega

/-- A 16-bit push: the high byte, then the low byte below it (R37). -/
@[simp] theorem push16_eq (w : Addr) (s : State) :
    push16 w s = .ok () ((s.setRam ((s.ram.write (0x100 + s.cpu.sp.toNat) (highByte w)).write
      (0x100 + (s.cpu.sp - 1).toNat) (lowByte w))).setSp (s.cpu.sp - 2)) := by
  rw [push16, push_eq, Res.bind_ok, push_eq, ← byte_sub_one_one]
  rfl

/-- A 16-bit pull: the low byte, then the high byte above it (R37). -/
@[simp] theorem pull16_eq (s : State) :
    pull16 s = .ok (word (s.ram.read (0x100 + (s.cpu.sp + 1).toNat)) (s.ram.read (0x100 + (s.cpu.sp + 2).toNat)))
      (s.setSp (s.cpu.sp + 2)) := by
  rw [pull16, pull_eq, Res.bind_ok, pull_eq, Res.bind_ok, ← byte_add_one_one]
  rfl

/-- A vector is read from PRG-ROM, with no side effect (R91). -/
theorem readWord_vector {a : Addr} (s : State) (h : 0x8000 ≤ a.toNat) (h' : a.toNat < 0xFFFF) :
    readWord a s = .ok (word (prgByte s.params a) (prgByte s.params (a + 1))) s := by
  have h1 : 0x8000 ≤ (a + 1).toNat := by
    rw [BitVec.toNat_add]
    simp
    omega
  rw [readWord, busRead_prg s h, Res.bind_ok, busRead_prg s h1, Res.bind_ok]

/-- Entering an interrupt through a vector of PRG-ROM: three bytes pushed, I set, PC from the vector; it never faults (R460). -/
theorem enterInterrupt_eq (ret : Addr) (b : Bool) {vector : Addr} (s : State) (h : 0x8000 ≤ vector.toNat)
    (h' : vector.toNat < 0xFFFF) :
    enterInterrupt ret b vector s = .ok () { s with
      ram := ((s.ram.write (0x100 + s.cpu.sp.toNat) (highByte ret)).write (0x100 + (s.cpu.sp - 1).toNat) (lowByte ret)).write
        (0x100 + (s.cpu.sp - 2).toNat) (pack s.cpu.p b)
      cpu := { s.cpu with
        sp := s.cpu.sp - 3
        pc := word (prgByte s.params vector) (prgByte s.params (vector + 1))
        p := { s.cpu.p with i := true } } } := by
  rw [enterInterrupt, push16_eq, Res.bind_ok, push_eq, Res.bind_ok, readWord_vector _ h h', Res.bind_ok, ← byte_sub_two_one]
  rfl

/-- Returning from an interrupt never faults (R303). -/
theorem returnFromInterrupt_eq (s : State) :
    returnFromInterrupt s = .ok () { s with cpu := { s.cpu with
      sp := s.cpu.sp + 3
      pc := word (s.ram.read (0x100 + (s.cpu.sp + 2).toNat)) (s.ram.read (0x100 + (s.cpu.sp + 3).toNat))
      p := unpack (s.ram.read (0x100 + (s.cpu.sp + 1).toNat)) } } := by
  have h1 : s.cpu.sp + 1 + 2 = s.cpu.sp + 3 := by bv_omega
  rw [returnFromInterrupt, pull_eq, Res.bind_ok, pull16_eq, Res.bind_ok, ← h1, ← byte_add_one_one s.cpu.sp]
  rfl

end Sys2Proof.Machine
end

