-- ==== Sys2Proof/Laws/Compositor.lean ====
section
/-! SUPPORT. What the framebuffer and the compositor do to one pixel: the last write to a pixel is what it holds. -/

namespace Sys2Proof.Machine

/-! ## The framebuffer -/

theorem fbGet_fbSet (fb : Framebuffer) (x y x' y' : Nat) (c : Pixel) :
    fbGet (fbSet fb x y c) x' y' = if x' = x ∧ y' = y then c else fbGet fb x' y' := by
  unfold fbGet fbSet
  by_cases hy : y' = y
  · subst hy
    by_cases hx : x' = x
    · subst hx; simp
    · rw [sparseGet_set_same, Option.bind_some, sparseGet_set_ne _ _ hx]
      cases sparseGet fb y' <;> simp [hx, sparseGet]
  · rw [sparseGet_set_ne _ _ hy]; simp [hy]

theorem fbGet_fbSetRun (c : Pixel) (y n x : Nat) (fb : Framebuffer) (x' y' : Nat) :
    fbGet (fbSetRun c y n x fb) x' y' = if y' = y ∧ x ≤ x' ∧ x' < x + n then c else fbGet fb x' y' := by
  induction n generalizing x fb with
  | zero => rw [fbSetRun, if_neg (by omega)]
  | succ n ih => rw [fbSetRun, ih, fbGet_fbSet]; split_ifs <;> first | rfl | omega

theorem fbGet_fbSetBlock (c : Pixel) (x w h y : Nat) (fb : Framebuffer) (x' y' : Nat) :
    fbGet (fbSetBlock c x w h y fb) x' y' =
      if (y ≤ y' ∧ y' < y + h) ∧ x ≤ x' ∧ x' < x + w then c else fbGet fb x' y' := by
  induction h generalizing y fb with
  | zero => rw [fbSetBlock, if_neg (by omega)]
  | succ h ih => rw [fbSetBlock, ih, fbGet_fbSetRun]; split_ifs <;> first | rfl | omega

/-- The blocks of two logical coordinates meet only when the coordinates are equal. -/
theorem block_coordinate {z q p i : Nat} (hi : i < z) : q * z ≤ p * z + i ∧ p * z + i < q * z + z ↔ q = p := by
  constructor
  · rintro ⟨h1, h2⟩
    by_contra h
    rcases Nat.lt_or_gt_of_ne h with h | h
    · have := Nat.mul_le_mul_right z h; rw [Nat.succ_mul] at this; omega
    · have := Nat.mul_le_mul_right z h; rw [Nat.succ_mul] at this; omega
  · rintro rfl; omega

/-- A plot changes the framebuffer pixels of its own logical pixel and no others. -/
theorem fbGet_plot {z px py i j : Nat} (qx qy : Int) (c : Pixel) (fb : Framebuffer) (hx : px < 256) (hy : py < 240)
    (hi : i < z) (hj : j < z) :
    fbGet (plot z qx qy c fb) (px * z + i) (py * z + j) =
      if qx = px ∧ qy = py then c else fbGet fb (px * z + i) (py * z + j) := by
  unfold plot onScreen
  by_cases h : 0 ≤ qx ∧ qx < 256 ∧ 0 ≤ qy ∧ qy < 240
  · rw [if_pos (by simpa using h), fbGet_fbSetBlock]
    simp only [block_coordinate hi, block_coordinate hj]
    congr 1
    apply propext
    constructor <;> rintro ⟨h1, h2⟩ <;> constructor <;> omega
  · rw [if_neg (by simpa using h), if_neg (by omega)]

/-! ## Folds: the last write wins -/

theorem foldl_constant {F V α : Type} (get : F → V) (g : F → α → F) (P : α → Bool) (c : V)
    (h : ∀ f a, get (g f a) = if P a then c else get f) (l : List α) (f : F) :
    get (l.foldl g f) = if l.any P then c else get f := by
  induction l generalizing f with
  | nil => rfl
  | cons a l ih => rw [List.foldl_cons, ih, h, List.any_cons]; cases P a <;> cases l.any P <;> rfl

theorem foldl_last {F V α : Type} (get : F → V) (g : F → α → F) (P : α → Bool) (c : α → V)
    (h : ∀ f a, get (g f a) = if P a then c a else get f) (l : List α) (f : F) :
    get (l.foldl g f) = ((l.filter P).getLast?.map c).getD (get f) := by
  induction l using List.reverseRecOn generalizing f with
  | nil => rfl
  | append_singleton l a ih =>
    rw [List.foldl_append, List.foldl_cons, List.foldl_nil, h, ih, List.filter_append, List.filter_cons, List.filter_nil]
    cases P a <;> simp

/-! ## Items and layers -/

/-- The pattern value of an item at a logical pixel it covers. -/
def itemValueAt (s : State) (it : DrawItem) (px py : Int) : Nat := itemValue s it (px - it.x).toNat (py - it.y).toNat

/-- A pass draws an item's pixel unless the pass is masked and the pattern value is 0. -/
def drawn (masked : Bool) (v : Nat) : Bool := !(masked && v == 0)

theorem fbGet_drawPixel (s : State) (masked : Bool) (it : DrawItem) (dx dy : Nat) (fb : Framebuffer) {px py i j : Nat}
    (hx : px < 256) (hy : py < 240) (hi : i < s.params.zoom) (hj : j < s.params.zoom) :
    fbGet (drawPixel s masked it dx dy fb) (px * s.params.zoom + i) (py * s.params.zoom + j) =
      if it.x + dx = px ∧ it.y + dy = py ∧ drawn masked (itemValueAt s it px py) = true then
        colour s it.palBase (itemValueAt s it px py)
      else fbGet fb (px * s.params.zoom + i) (py * s.params.zoom + j) := by
  have e : it.x + dx = px → it.y + dy = py → itemValueAt s it px py = itemValue s it dx dy := by
    intro h1 h2
    unfold itemValueAt
    rw [show ((px : Int) - it.x).toNat = dx by omega, show ((py : Int) - it.y).toNat = dy by omega]
  unfold drawPixel
  by_cases h1 : it.x + dx = px
  · by_cases h2 : it.y + dy = py
    · rw [e h1 h2]
      cases hv : (masked && itemValue s it dx dy == 0)
      · simp [hv, drawn, fbGet_plot _ _ _ _ hx hy hi hj, h1, h2]
      · simp [hv, drawn]
    · simp only [h2, false_and, and_false, if_false]
      split
      · rfl
      · rw [fbGet_plot _ _ _ _ hx hy hi hj, if_neg (by tauto)]
  · simp only [h1, false_and, if_false]
    split
    · rfl
    · rw [fbGet_plot _ _ _ _ hx hy hi hj, if_neg (by tauto)]

theorem fbGet_drawItem (s : State) (masked : Bool) (it : DrawItem) (fb : Framebuffer) {px py i j : Nat}
    (hx : px < 256) (hy : py < 240) (hi : i < s.params.zoom) (hj : j < s.params.zoom) :
    fbGet (drawItem s masked it fb) (px * s.params.zoom + i) (py * s.params.zoom + j) =
      if itemCovers it px py && drawn masked (itemValueAt s it px py) then
        colour s it.palBase (itemValueAt s it px py)
      else fbGet fb (px * s.params.zoom + i) (py * s.params.zoom + j) := by
  unfold drawItem
  have inner := fun (fb : Framebuffer) (dy : Nat) =>
    foldl_constant (fun fb => fbGet fb (px * s.params.zoom + i) (py * s.params.zoom + j))
      (fun fb dx => drawPixel s masked it dx dy fb)
      (fun dx => decide (it.x + dx = px ∧ it.y + dy = py ∧ drawn masked (itemValueAt s it px py) = true))
      (colour s it.palBase (itemValueAt s it px py))
      (fun fb dx => by simpa using fbGet_drawPixel s masked it dx dy fb hx hy hi hj) (List.range 8) fb
  rw [foldl_constant (fun fb => fbGet fb (px * s.params.zoom + i) (py * s.params.zoom + j)) _ _ _ inner]
  congr 1
  cases drawn masked (itemValueAt s it px py)
  · simp
  · apply propext
    simp only [List.any_eq_true, List.mem_range, decide_eq_true_eq, itemCovers, Bool.and_true, and_true]
    constructor
    · rintro ⟨dy, h1, dx, h2, h3, h4⟩; omega
    · intro h
      exact ⟨((py : Int) - it.y).toNat, by omega, ((px : Int) - it.x).toNat, by omega, by omega, by omega⟩

theorem fbGet_drawLayer (s : State) (masked : Bool) (layer : List DrawItem) (fb : Framebuffer) {px py i j : Nat}
    (hx : px < 256) (hy : py < 240) (hi : i < s.params.zoom) (hj : j < s.params.zoom) :
    fbGet (drawLayer s masked layer fb) (px * s.params.zoom + i) (py * s.params.zoom + j) =
      (((layer.filter fun it => itemCovers it px py && drawn masked (itemValueAt s it px py)).getLast?).map
        fun it => colour s it.palBase (itemValueAt s it px py)).getD
        (fbGet fb (px * s.params.zoom + i) (py * s.params.zoom + j)) :=
  foldl_last (fun fb => fbGet fb (px * s.params.zoom + i) (py * s.params.zoom + j)) _ _ _
    (fun fb it => fbGet_drawItem s masked it fb hx hy hi hj) layer fb

/-! ## Off the screen -/

/-- A plot writes nothing off the screen (R427). -/
theorem fbGet_plot_off {z x y : Nat} (qx qy : Int) (c : Pixel) (fb : Framebuffer) (h : 256 * z ≤ x ∨ 240 * z ≤ y) :
    fbGet (plot z qx qy c fb) x y = fbGet fb x y := by
  unfold plot onScreen
  split
  · next hq =>
    rw [decide_eq_true_iff] at hq
    have block (q m : Nat) (hq : q < m) : q * z + z ≤ m * z := by
      have := Nat.mul_le_mul_right z (Nat.succ_le_of_lt hq)
      rwa [Nat.succ_mul] at this
    have h1 := block qx.toNat 256 (by omega)
    have h2 := block qy.toNat 240 (by omega)
    rw [fbGet_fbSetBlock, if_neg (by omega)]
  · rfl

/-! ## The form of the framebuffer -/

theorem fbSet_wf {fb : Framebuffer} (x y : Nat) (c : Pixel) (h : fbWf fb) : fbWf (fbSet fb x y c) := by
  refine ⟨sparseSet_sorted _ _ h.1, fun row hr => ?_⟩
  have hrow : sparseSorted ((sparseGet fb y).getD []) := by
    cases hg : sparseGet fb y with
    | none => exact List.Pairwise.nil
    | some r => exact (h.2 _ (mem_of_sparseGet hg)).2
  rcases mem_sparseSet hr with hr | hr
  · subst hr
    exact ⟨sparseSet_ne_nil _ _ _, sparseSet_sorted _ _ hrow⟩
  · exact h.2 row hr

theorem fbSetRun_wf (c : Pixel) (y n x : Nat) {fb : Framebuffer} (h : fbWf fb) : fbWf (fbSetRun c y n x fb) := by
  induction n generalizing x fb with
  | zero => exact h
  | succ n ih => exact ih (x + 1) (fbSet_wf x y c h)

theorem fbSetBlock_wf (c : Pixel) (x w n y : Nat) {fb : Framebuffer} (h : fbWf fb) : fbWf (fbSetBlock c x w n y fb) := by
  induction n generalizing y fb with
  | zero => exact h
  | succ n ih => exact ih (y + 1) (fbSetRun_wf c y w x h)

theorem foldl_keeps {F α : Type} (K : F → Prop) (g : F → α → F) (h : ∀ f a, K f → K (g f a)) (l : List α) {f : F} (hf : K f) :
    K (l.foldl g f) := by
  induction l generalizing f with
  | nil => exact hf
  | cons a l ih => exact ih (h f a hf)

theorem plot_wf (z : Nat) (px py : Int) (c : Pixel) {fb : Framebuffer} (h : fbWf fb) : fbWf (plot z px py c fb) := by
  unfold plot
  split_ifs
  · exact fbSetBlock_wf _ _ _ _ _ h
  · exact h

/-- A pass keeps what every plot keeps. -/
theorem drawLayer_keeps {K : Framebuffer → Prop} (s : State) (h : ∀ px py c fb, K fb → K (plot s.params.zoom px py c fb))
    (masked : Bool) (layer : List DrawItem) {fb : Framebuffer} (hf : K fb) : K (drawLayer s masked layer fb) := by
  refine foldl_keeps K _ (fun fb it hf => ?_) layer hf
  refine foldl_keeps K _ (fun fb dy hf => ?_) _ hf
  refine foldl_keeps K _ (fun fb dx hf => ?_) _ hf
  unfold drawPixel
  dsimp only
  split_ifs
  · exact hf
  · exact h _ _ _ _ hf

/-- Composite keeps what every plot keeps. -/
theorem compositePasses_keeps {K : Framebuffer → Prop} (s : State) (h : ∀ px py c fb, K fb → K (plot s.params.zoom px py c fb))
    (hf : K s.rend.fb) : K (compositePasses s) :=
  drawLayer_keeps s h _ _ (drawLayer_keeps s h _ _ (drawLayer_keeps s h _ _ (drawLayer_keeps s h _ _ hf)))

/-- Composite keeps the form of the framebuffer. -/
theorem compositePasses_wf (s : State) (h : fbWf s.rend.fb) : fbWf (compositePasses s) :=
  compositePasses_keeps s (fun px py c _ => plot_wf _ px py c) h

/-- Composite writes nothing off the screen. -/
theorem fbGet_compositePasses_off (s : State) {x y : Nat} (h : 256 * s.params.zoom ≤ x ∨ 240 * s.params.zoom ≤ y) :
    fbGet (compositePasses s) x y = fbGet s.rend.fb x y :=
  compositePasses_keeps (K := fun fb => fbGet fb x y = fbGet s.rend.fb x y) s
    (fun px py c fb hf => (fbGet_plot_off px py c fb h).trans hf) rfl

/-- Everything Composite does. -/
theorem composite_eq (s : State) :
    composite s = { s with
      rend := { bg := [], behind := [], front := [], fb := compositePasses s }
      published := s.published ++
        [{ x := 0, y := 0, w := 256 * s.params.zoom, h := 240 * s.params.zoom, pixels := compositePasses s }] } :=
  rfl

end Sys2Proof.Machine
end

