-- ==== Sys2Proof/Laws/Operands.lean ====
section
/-! SUPPORT. The laws of the operands and of the operations that read or write through one: where an address comes from, what a
value read leaves unchanged, and what a read-modify-write does. -/

namespace Sys2Proof.Machine

/-! ## Zero page -/

theorem zext16_lt (z : Byte) : (zext16 z).toNat < 0x2000 := by
  have := z.isLt
  rw [zext16_toNat]
  omega

/-- A zero-page read gives the byte of RAM there and has no side effect. -/
@[simp] theorem busRead_zext16 (z : Byte) (s : State) : busRead (zext16 z) s = .ok (s.ram.read z.toNat) s := by
  have := z.isLt
  rw [busRead_ram s (zext16_lt z), zext16_toNat, Config.ramSize, Nat.mod_eq_of_lt (by omega)]

/-! ## Addresses -/

/-- Every mode but Indirect finds its address, if it has one, without changing the state: its pointer lies in zero page. -/
theorem operandAddr_eq_of_storeAddr {o : Operand} {s : State} {a : Addr} (h : storeAddr o s = some a) :
    operandAddr o s = .ok a s := by
  cases o <;> simp [storeAddr] at h <;> subst h <;> simp [operandAddr, zeroPageWord]

/-- The address of a mode other than Indirect. -/
theorem operandAddr_ok {o : Operand} {s t : State} {a : Addr} (hm : o.mode ≠ .ind) (h : operandAddr o s = .ok a t) :
    t = s ∧ storeAddr o s = some a := by
  cases o <;> simp [operandAddr, Operand.mode, storeAddr, zeroPageWord] at h hm ⊢ <;> (obtain ⟨h1, rfl⟩ := h; simp [h1])

/-- A mode with an address, other than Indirect, never stops on the way to it. -/
theorem operandAddr_ne_stopped {o : Operand} {s t : State} (ha : modeHasAddress o.mode = true) (hm : o.mode ≠ .ind) :
    operandAddr o s ≠ .stopped t := by
  cases o <;> simp [operandAddr, Operand.mode, modeHasAddress] at ha hm ⊢

/-- The Indirect pointer reads go on with the CPU, RAM and PPU memory as they were. -/
theorem operandAddr_ok_frame {o : Operand} {s t : State} {a : Addr} (h : operandAddr o s = .ok a t) :
    t.cpu = s.cpu ∧ t.ram = s.ram ∧ t.vmem = s.vmem ∧ SameEngine s t := by
  by_cases hm : o.mode = .ind
  · cases o <;> simp [Operand.mode] at hm
    simp only [operandAddr, Res.bind_eq_ok] at h
    obtain ⟨lo, u, h1, hi, v, h2, h3⟩ := h
    cases h3
    obtain ⟨a1, a2, a3, a4⟩ := busRead_ok h1
    obtain ⟨b1, b2, b3, b4⟩ := busRead_ok h2
    exact ⟨b1.trans a1, b2.trans a2, b3.trans a3, a4.trans b4⟩
  · obtain ⟨rfl, -⟩ := operandAddr_ok hm h
    exact ⟨rfl, rfl, rfl, SameEngine.refl _⟩

/-- The Indirect pointer reads stop only by recording a fault. -/
theorem operandAddr_stopped_frame {o : Operand} {s t : State} (ha : modeHasAddress o.mode = true)
    (h : operandAddr o s = .stopped t) : StoppedFrom s t ∧ t.ram = s.ram ∧ t.vmem = s.vmem ∧ SameEngine s t := by
  by_cases hm : o.mode = .ind
  · cases o <;> simp [Operand.mode] at hm
    simp only [operandAddr, Res.bind_eq_stopped] at h
    rcases h with h | ⟨lo, u, h1, h | ⟨_, _, _, h⟩⟩
    · exact busRead_stoppedFrom h
    · obtain ⟨a1, a2, a3, a4⟩ := busRead_ok h1
      obtain ⟨⟨f, hf, k⟩, b2, b3, b4⟩ := busRead_stoppedFrom h
      exact ⟨⟨f, by rw [hf, a1], k⟩, b2.trans a2, b3.trans a3, a4.trans b4⟩
    · cases h
  · exact absurd h (operandAddr_ne_stopped ha hm)

/-! ## Values -/

/-- A value in memory is one read of the mode's address. -/
theorem operandValue_eq_read {o : Operand} (s : State) (ha : modeHasAddress o.mode = true) (hm : o.mode ≠ .ind) :
    operandValue o s = (operandAddr o s).bind busRead := by
  cases o <;> simp [operandValue, Operand.mode, modeHasAddress] at ha hm ⊢

/-- Reading a value goes on with the CPU, RAM and PPU memory as they were. -/
theorem operandValue_ok_frame {o : Operand} {s t : State} {v : Byte} (h : operandValue o s = .ok v t) :
    t.cpu = s.cpu ∧ t.ram = s.ram ∧ t.vmem = s.vmem ∧ SameEngine s t := by
  by_cases ha : modeHasAddress o.mode = true ∧ o.mode ≠ .ind
  · rw [operandValue_eq_read s ha.1 ha.2, Res.bind_eq_ok] at h
    obtain ⟨a, u, h1, h2⟩ := h
    obtain ⟨rfl, -⟩ := operandAddr_ok ha.2 h1
    exact busRead_ok h2
  · cases o <;> simp [Operand.mode, modeHasAddress, operandValue] at h ha <;>
      (obtain ⟨-, rfl⟩ := h; exact ⟨rfl, rfl, rfl, SameEngine.refl _⟩)

/-- Reading a value stops only in the one read of its address. -/
theorem operandValue_stopped {o : Operand} {s t : State} (hv : modeHasValue o.mode = true) (h : operandValue o s = .stopped t) :
    ∃ a, storeAddr o s = some a ∧ busRead a s = .stopped t := by
  by_cases ha : modeHasAddress o.mode = true ∧ o.mode ≠ .ind
  · rw [operandValue_eq_read s ha.1 ha.2, Res.bind_eq_stopped] at h
    rcases h with h | ⟨a, u, h1, h2⟩
    · exact absurd h (operandAddr_ne_stopped ha.1 ha.2)
    · obtain ⟨rfl, h3⟩ := operandAddr_ok ha.2 h1
      exact ⟨a, h3, h2⟩
  · cases o <;> simp [Operand.mode, modeHasAddress, modeHasValue, operandValue] at h ha hv

/-! ## Read-modify-write -/

/-- In Accumulator mode a read-modify-write makes no bus access. -/
@[simp] theorem readModifyWrite_acc (f : Byte → Byte) (k : Byte → State → Res Unit) (s : State) :
    readModifyWrite .acc f k s = k s.cpu.a (s.setA (f s.cpu.a)) := rfl

/-- In a memory mode it is one read and then one write of the same address (R171). -/
theorem readModifyWrite_mem {o : Operand} {s t : State} {a : Addr} (f : Byte → Byte) (k : Byte → State → Res Unit)
    (h : operandAddr o s = .ok a t) :
    readModifyWrite o f k s = (busRead a t).bind fun m u => (busWrite a (f m) u).bind fun _ w => k m w := by
  cases o <;> simp [readModifyWrite, h]
  simp [operandAddr] at h

/-- In RAM it changes one byte. -/
theorem readModifyWrite_ram {o : Operand} {s t : State} {a : Addr} (f : Byte → Byte) (k : Byte → State → Res Unit)
    (h : operandAddr o s = .ok a t) (ha : a.toNat < 0x2000) :
    readModifyWrite o f k s = k (t.ram.read (a.toNat % Config.ramSize))
      (t.setRam (t.ram.write (a.toNat % Config.ramSize) (f (t.ram.read (a.toNat % Config.ramSize))))) := by
  rw [readModifyWrite_mem f k h, busRead_ram t ha, Res.bind_ok, busWrite_ram _ t ha, Res.bind_ok]

end Sys2Proof.Machine
end

