-- ==== Sys2Proof/Laws/Exec.lean ====
section
/-! SUPPORT. exec by mnemonic: the modes of one mnemonic share one operation on the operand the instruction carries, so that a
law about every instruction needs one case for each of the 56 mnemonics. -/

namespace Sys2Proof.Machine

/-- The operation of each mnemonic on an operand. -/
def operation (m : Mnemonic) (o : Operand) (s : State) : Res Unit :=
  match m with
  | .LDA => load State.setA o s
  | .LDX => load State.setX o s
  | .LDY => load State.setY o s
  | .STA => store s.cpu.a o s
  | .STX => store s.cpu.x o s
  | .STY => store s.cpu.y o s
  | .ADC => adc o s
  | .SBC => sbc o s
  | .AND => logic (fun a m => a &&& m) o s
  | .ORA => logic (fun a m => a ||| m) o s
  | .EOR => logic (fun a m => a ^^^ m) o s
  | .CMP => compare (fun s => s.cpu.a) o s
  | .CPX => compare (fun s => s.cpu.x) o s
  | .CPY => compare (fun s => s.cpu.y) o s
  | .BIT => bitTest o s
  | .INC => stepMemory (fun m => m + 1) o s
  | .DEC => stepMemory (fun m => m - 1) o s
  | .ASL => shift shiftAsl o s
  | .LSR => shift shiftLsr o s
  | .ROL => shift shiftRol o s
  | .ROR => shift shiftRor o s
  | .INX => stepRegister State.setX (s.cpu.x + 1) s
  | .INY => stepRegister State.setY (s.cpu.y + 1) s
  | .DEX => stepRegister State.setX (s.cpu.x - 1) s
  | .DEY => stepRegister State.setY (s.cpu.y - 1) s
  | .TAX => transfer State.setX s.cpu.a s
  | .TAY => transfer State.setY s.cpu.a s
  | .TXA => transfer State.setA s.cpu.x s
  | .TYA => transfer State.setA s.cpu.y s
  | .TSX => transfer State.setX s.cpu.sp s
  | .TXS => .ok () (s.setSp s.cpu.x)
  | .BCC => branch (!s.cpu.p.c) o s
  | .BCS => branch s.cpu.p.c o s
  | .BEQ => branch s.cpu.p.z o s
  | .BNE => branch (!s.cpu.p.z) o s
  | .BMI => branch s.cpu.p.n o s
  | .BPL => branch (!s.cpu.p.n) o s
  | .BVC => branch (!s.cpu.p.v) o s
  | .BVS => branch s.cpu.p.v o s
  | .JMP => jump o s
  | .JSR => jumpSubroutine o s
  | .RTS => returnSubroutine s
  | .BRK => enterInterrupt (s.cpu.pc + 1) true Config.brkVector s
  | .RTI => returnFromInterrupt s
  | .PHA => push s.cpu.a s
  | .PHP => push (pack s.cpu.p true) s
  | .PLA => pullA s
  | .PLP => pullP s
  | .CLC => .ok () (s.setP { s.cpu.p with c := false })
  | .CLD => .ok () (s.setP { s.cpu.p with d := false })
  | .CLI => .ok () (s.setP { s.cpu.p with i := false })
  | .CLV => .ok () (s.setP { s.cpu.p with v := false })
  | .SEC => .ok () (s.setP { s.cpu.p with c := true })
  | .SED => .ok () (s.setP { s.cpu.p with d := true })
  | .SEI => .ok () (s.setP { s.cpu.p with i := true })
  | .NOP => .ok () s

/-- exec answers what the operation of the instruction's mnemonic does. -/
theorem exec_eq_operation (i : Instr) (s : State) : exec i s = finish (operation i.mnemonic i.operand s) := by
  cases i <;> rfl

/-- The operation of an instruction whose mnemonic is known. -/
theorem exec_of_mnemonic {i : Instr} {m : Mnemonic} (s : State) (h : i.mnemonic = m) :
    exec i s = finish (operation m i.operand s) := by
  rw [exec_eq_operation, h]

/-- The mode of an instruction is one of its mnemonic's (30_encoding.md R145). -/
theorem mode_mem_modes (i : Instr) : i.operand.mode ∈ i.mnemonic.modes := by
  have h : decide (i.operand.mode ∈ i.mnemonic.modes) = true := by cases i <;> rfl
  exact of_decide_eq_true h

/-- No meaning stops or refuses: exec always answers a next state. -/
theorem exec_next (i : Instr) (s : State) : ∃ t, exec i s = .next t := by
  rw [exec_eq_operation]
  exact finish_eq_next _

end Sys2Proof.Machine
end

