-- ==== Sys2Proof/Laws/PerInstr.lean ====
section
/-! SUPPORT. Statements made once for each instruction. TableRow: the opcode the encoder gives an instruction selects, in the
decoder's table, a row with the instruction's own mnemonic and mode, and the instruction is as long as its mode says. The decoder
is written from the opcode map R144 and the encoder from the listing by mnemonic R145, so this holds the two against each other. -/

namespace Sys2Proof.Laws.TableRow

def Statement (i : Instr) : Prop :=
  (opcodeRow i.opcode).map (fun row => (row.opcode, row.mnemonic, row.mode)) = some (i.opcode, i.mnemonic, i.operand.mode) ∧
    (encode i).length = i.operand.mode.length

theorem brk : Statement (.brk) := ⟨rfl, rfl⟩
theorem oraIndx (z : Byte) : Statement (.oraIndx z) := ⟨rfl, rfl⟩
theorem oraZp (z : Byte) : Statement (.oraZp z) := ⟨rfl, rfl⟩
theorem aslZp (z : Byte) : Statement (.aslZp z) := ⟨rfl, rfl⟩
theorem php : Statement (.php) := ⟨rfl, rfl⟩
theorem oraImm (v : Byte) : Statement (.oraImm v) := ⟨rfl, rfl⟩
theorem aslAcc : Statement (.aslAcc) := ⟨rfl, rfl⟩
theorem oraAbs (a : Addr) : Statement (.oraAbs a) := ⟨rfl, rfl⟩
theorem aslAbs (a : Addr) : Statement (.aslAbs a) := ⟨rfl, rfl⟩
theorem bpl (r : Byte) : Statement (.bpl r) := ⟨rfl, rfl⟩
theorem oraIndy (z : Byte) : Statement (.oraIndy z) := ⟨rfl, rfl⟩
theorem oraZpx (z : Byte) : Statement (.oraZpx z) := ⟨rfl, rfl⟩
theorem aslZpx (z : Byte) : Statement (.aslZpx z) := ⟨rfl, rfl⟩
theorem clc : Statement (.clc) := ⟨rfl, rfl⟩
theorem oraAbsy (a : Addr) : Statement (.oraAbsy a) := ⟨rfl, rfl⟩
theorem oraAbsx (a : Addr) : Statement (.oraAbsx a) := ⟨rfl, rfl⟩
theorem aslAbsx (a : Addr) : Statement (.aslAbsx a) := ⟨rfl, rfl⟩
theorem jsr (a : Addr) : Statement (.jsr a) := ⟨rfl, rfl⟩
theorem andIndx (z : Byte) : Statement (.andIndx z) := ⟨rfl, rfl⟩
theorem bitZp (z : Byte) : Statement (.bitZp z) := ⟨rfl, rfl⟩
theorem andZp (z : Byte) : Statement (.andZp z) := ⟨rfl, rfl⟩
theorem rolZp (z : Byte) : Statement (.rolZp z) := ⟨rfl, rfl⟩
theorem plp : Statement (.plp) := ⟨rfl, rfl⟩
theorem andImm (v : Byte) : Statement (.andImm v) := ⟨rfl, rfl⟩
theorem rolAcc : Statement (.rolAcc) := ⟨rfl, rfl⟩
theorem bitAbs (a : Addr) : Statement (.bitAbs a) := ⟨rfl, rfl⟩
theorem andAbs (a : Addr) : Statement (.andAbs a) := ⟨rfl, rfl⟩
theorem rolAbs (a : Addr) : Statement (.rolAbs a) := ⟨rfl, rfl⟩
theorem bmi (r : Byte) : Statement (.bmi r) := ⟨rfl, rfl⟩
theorem andIndy (z : Byte) : Statement (.andIndy z) := ⟨rfl, rfl⟩
theorem andZpx (z : Byte) : Statement (.andZpx z) := ⟨rfl, rfl⟩
theorem rolZpx (z : Byte) : Statement (.rolZpx z) := ⟨rfl, rfl⟩
theorem sec : Statement (.sec) := ⟨rfl, rfl⟩
theorem andAbsy (a : Addr) : Statement (.andAbsy a) := ⟨rfl, rfl⟩
theorem andAbsx (a : Addr) : Statement (.andAbsx a) := ⟨rfl, rfl⟩
theorem rolAbsx (a : Addr) : Statement (.rolAbsx a) := ⟨rfl, rfl⟩
theorem rti : Statement (.rti) := ⟨rfl, rfl⟩
theorem eorIndx (z : Byte) : Statement (.eorIndx z) := ⟨rfl, rfl⟩
theorem eorZp (z : Byte) : Statement (.eorZp z) := ⟨rfl, rfl⟩
theorem lsrZp (z : Byte) : Statement (.lsrZp z) := ⟨rfl, rfl⟩
theorem pha : Statement (.pha) := ⟨rfl, rfl⟩
theorem eorImm (v : Byte) : Statement (.eorImm v) := ⟨rfl, rfl⟩
theorem lsrAcc : Statement (.lsrAcc) := ⟨rfl, rfl⟩
theorem jmpAbs (a : Addr) : Statement (.jmpAbs a) := ⟨rfl, rfl⟩
theorem eorAbs (a : Addr) : Statement (.eorAbs a) := ⟨rfl, rfl⟩
theorem lsrAbs (a : Addr) : Statement (.lsrAbs a) := ⟨rfl, rfl⟩
theorem bvc (r : Byte) : Statement (.bvc r) := ⟨rfl, rfl⟩
theorem eorIndy (z : Byte) : Statement (.eorIndy z) := ⟨rfl, rfl⟩
theorem eorZpx (z : Byte) : Statement (.eorZpx z) := ⟨rfl, rfl⟩
theorem lsrZpx (z : Byte) : Statement (.lsrZpx z) := ⟨rfl, rfl⟩
theorem cli : Statement (.cli) := ⟨rfl, rfl⟩
theorem eorAbsy (a : Addr) : Statement (.eorAbsy a) := ⟨rfl, rfl⟩
theorem eorAbsx (a : Addr) : Statement (.eorAbsx a) := ⟨rfl, rfl⟩
theorem lsrAbsx (a : Addr) : Statement (.lsrAbsx a) := ⟨rfl, rfl⟩
theorem rts : Statement (.rts) := ⟨rfl, rfl⟩
theorem adcIndx (z : Byte) : Statement (.adcIndx z) := ⟨rfl, rfl⟩
theorem adcZp (z : Byte) : Statement (.adcZp z) := ⟨rfl, rfl⟩
theorem rorZp (z : Byte) : Statement (.rorZp z) := ⟨rfl, rfl⟩
theorem pla : Statement (.pla) := ⟨rfl, rfl⟩
theorem adcImm (v : Byte) : Statement (.adcImm v) := ⟨rfl, rfl⟩
theorem rorAcc : Statement (.rorAcc) := ⟨rfl, rfl⟩
theorem jmpInd (a : Addr) : Statement (.jmpInd a) := ⟨rfl, rfl⟩
theorem adcAbs (a : Addr) : Statement (.adcAbs a) := ⟨rfl, rfl⟩
theorem rorAbs (a : Addr) : Statement (.rorAbs a) := ⟨rfl, rfl⟩
theorem bvs (r : Byte) : Statement (.bvs r) := ⟨rfl, rfl⟩
theorem adcIndy (z : Byte) : Statement (.adcIndy z) := ⟨rfl, rfl⟩
theorem adcZpx (z : Byte) : Statement (.adcZpx z) := ⟨rfl, rfl⟩
theorem rorZpx (z : Byte) : Statement (.rorZpx z) := ⟨rfl, rfl⟩
theorem sei : Statement (.sei) := ⟨rfl, rfl⟩
theorem adcAbsy (a : Addr) : Statement (.adcAbsy a) := ⟨rfl, rfl⟩
theorem adcAbsx (a : Addr) : Statement (.adcAbsx a) := ⟨rfl, rfl⟩
theorem rorAbsx (a : Addr) : Statement (.rorAbsx a) := ⟨rfl, rfl⟩
theorem staIndx (z : Byte) : Statement (.staIndx z) := ⟨rfl, rfl⟩
theorem styZp (z : Byte) : Statement (.styZp z) := ⟨rfl, rfl⟩
theorem staZp (z : Byte) : Statement (.staZp z) := ⟨rfl, rfl⟩
theorem stxZp (z : Byte) : Statement (.stxZp z) := ⟨rfl, rfl⟩
theorem dey : Statement (.dey) := ⟨rfl, rfl⟩
theorem txa : Statement (.txa) := ⟨rfl, rfl⟩
theorem styAbs (a : Addr) : Statement (.styAbs a) := ⟨rfl, rfl⟩
theorem staAbs (a : Addr) : Statement (.staAbs a) := ⟨rfl, rfl⟩
theorem stxAbs (a : Addr) : Statement (.stxAbs a) := ⟨rfl, rfl⟩
theorem bcc (r : Byte) : Statement (.bcc r) := ⟨rfl, rfl⟩
theorem staIndy (z : Byte) : Statement (.staIndy z) := ⟨rfl, rfl⟩
theorem styZpx (z : Byte) : Statement (.styZpx z) := ⟨rfl, rfl⟩
theorem staZpx (z : Byte) : Statement (.staZpx z) := ⟨rfl, rfl⟩
theorem stxZpy (z : Byte) : Statement (.stxZpy z) := ⟨rfl, rfl⟩
theorem tya : Statement (.tya) := ⟨rfl, rfl⟩
theorem staAbsy (a : Addr) : Statement (.staAbsy a) := ⟨rfl, rfl⟩
theorem txs : Statement (.txs) := ⟨rfl, rfl⟩
theorem staAbsx (a : Addr) : Statement (.staAbsx a) := ⟨rfl, rfl⟩
theorem ldyImm (v : Byte) : Statement (.ldyImm v) := ⟨rfl, rfl⟩
theorem ldaIndx (z : Byte) : Statement (.ldaIndx z) := ⟨rfl, rfl⟩
theorem ldxImm (v : Byte) : Statement (.ldxImm v) := ⟨rfl, rfl⟩
theorem ldyZp (z : Byte) : Statement (.ldyZp z) := ⟨rfl, rfl⟩
theorem ldaZp (z : Byte) : Statement (.ldaZp z) := ⟨rfl, rfl⟩
theorem ldxZp (z : Byte) : Statement (.ldxZp z) := ⟨rfl, rfl⟩
theorem tay : Statement (.tay) := ⟨rfl, rfl⟩
theorem ldaImm (v : Byte) : Statement (.ldaImm v) := ⟨rfl, rfl⟩
theorem tax : Statement (.tax) := ⟨rfl, rfl⟩
theorem ldyAbs (a : Addr) : Statement (.ldyAbs a) := ⟨rfl, rfl⟩
theorem ldaAbs (a : Addr) : Statement (.ldaAbs a) := ⟨rfl, rfl⟩
theorem ldxAbs (a : Addr) : Statement (.ldxAbs a) := ⟨rfl, rfl⟩
theorem bcs (r : Byte) : Statement (.bcs r) := ⟨rfl, rfl⟩
theorem ldaIndy (z : Byte) : Statement (.ldaIndy z) := ⟨rfl, rfl⟩
theorem ldyZpx (z : Byte) : Statement (.ldyZpx z) := ⟨rfl, rfl⟩
theorem ldaZpx (z : Byte) : Statement (.ldaZpx z) := ⟨rfl, rfl⟩
theorem ldxZpy (z : Byte) : Statement (.ldxZpy z) := ⟨rfl, rfl⟩
theorem clv : Statement (.clv) := ⟨rfl, rfl⟩
theorem ldaAbsy (a : Addr) : Statement (.ldaAbsy a) := ⟨rfl, rfl⟩
theorem tsx : Statement (.tsx) := ⟨rfl, rfl⟩
theorem ldyAbsx (a : Addr) : Statement (.ldyAbsx a) := ⟨rfl, rfl⟩
theorem ldaAbsx (a : Addr) : Statement (.ldaAbsx a) := ⟨rfl, rfl⟩
theorem ldxAbsy (a : Addr) : Statement (.ldxAbsy a) := ⟨rfl, rfl⟩
theorem cpyImm (v : Byte) : Statement (.cpyImm v) := ⟨rfl, rfl⟩
theorem cmpIndx (z : Byte) : Statement (.cmpIndx z) := ⟨rfl, rfl⟩
theorem cpyZp (z : Byte) : Statement (.cpyZp z) := ⟨rfl, rfl⟩
theorem cmpZp (z : Byte) : Statement (.cmpZp z) := ⟨rfl, rfl⟩
theorem decZp (z : Byte) : Statement (.decZp z) := ⟨rfl, rfl⟩
theorem iny : Statement (.iny) := ⟨rfl, rfl⟩
theorem cmpImm (v : Byte) : Statement (.cmpImm v) := ⟨rfl, rfl⟩
theorem dex : Statement (.dex) := ⟨rfl, rfl⟩
theorem cpyAbs (a : Addr) : Statement (.cpyAbs a) := ⟨rfl, rfl⟩
theorem cmpAbs (a : Addr) : Statement (.cmpAbs a) := ⟨rfl, rfl⟩
theorem decAbs (a : Addr) : Statement (.decAbs a) := ⟨rfl, rfl⟩
theorem bne (r : Byte) : Statement (.bne r) := ⟨rfl, rfl⟩
theorem cmpIndy (z : Byte) : Statement (.cmpIndy z) := ⟨rfl, rfl⟩
theorem cmpZpx (z : Byte) : Statement (.cmpZpx z) := ⟨rfl, rfl⟩
theorem decZpx (z : Byte) : Statement (.decZpx z) := ⟨rfl, rfl⟩
theorem cld : Statement (.cld) := ⟨rfl, rfl⟩
theorem cmpAbsy (a : Addr) : Statement (.cmpAbsy a) := ⟨rfl, rfl⟩
theorem cmpAbsx (a : Addr) : Statement (.cmpAbsx a) := ⟨rfl, rfl⟩
theorem decAbsx (a : Addr) : Statement (.decAbsx a) := ⟨rfl, rfl⟩
theorem cpxImm (v : Byte) : Statement (.cpxImm v) := ⟨rfl, rfl⟩
theorem sbcIndx (z : Byte) : Statement (.sbcIndx z) := ⟨rfl, rfl⟩
theorem cpxZp (z : Byte) : Statement (.cpxZp z) := ⟨rfl, rfl⟩
theorem sbcZp (z : Byte) : Statement (.sbcZp z) := ⟨rfl, rfl⟩
theorem incZp (z : Byte) : Statement (.incZp z) := ⟨rfl, rfl⟩
theorem inx : Statement (.inx) := ⟨rfl, rfl⟩
theorem sbcImm (v : Byte) : Statement (.sbcImm v) := ⟨rfl, rfl⟩
theorem nop : Statement (.nop) := ⟨rfl, rfl⟩
theorem cpxAbs (a : Addr) : Statement (.cpxAbs a) := ⟨rfl, rfl⟩
theorem sbcAbs (a : Addr) : Statement (.sbcAbs a) := ⟨rfl, rfl⟩
theorem incAbs (a : Addr) : Statement (.incAbs a) := ⟨rfl, rfl⟩
theorem beq (r : Byte) : Statement (.beq r) := ⟨rfl, rfl⟩
theorem sbcIndy (z : Byte) : Statement (.sbcIndy z) := ⟨rfl, rfl⟩
theorem sbcZpx (z : Byte) : Statement (.sbcZpx z) := ⟨rfl, rfl⟩
theorem incZpx (z : Byte) : Statement (.incZpx z) := ⟨rfl, rfl⟩
theorem sed : Statement (.sed) := ⟨rfl, rfl⟩
theorem sbcAbsy (a : Addr) : Statement (.sbcAbsy a) := ⟨rfl, rfl⟩
theorem sbcAbsx (a : Addr) : Statement (.sbcAbsx a) := ⟨rfl, rfl⟩
theorem incAbsx (a : Addr) : Statement (.incAbsx a) := ⟨rfl, rfl⟩

/-- The statement for every instruction. -/
theorem all (i : Instr) : Statement i :=
  match i with
  | .brk => brk
  | .oraIndx z => oraIndx z
  | .oraZp z => oraZp z
  | .aslZp z => aslZp z
  | .php => php
  | .oraImm v => oraImm v
  | .aslAcc => aslAcc
  | .oraAbs a => oraAbs a
  | .aslAbs a => aslAbs a
  | .bpl r => bpl r
  | .oraIndy z => oraIndy z
  | .oraZpx z => oraZpx z
  | .aslZpx z => aslZpx z
  | .clc => clc
  | .oraAbsy a => oraAbsy a
  | .oraAbsx a => oraAbsx a
  | .aslAbsx a => aslAbsx a
  | .jsr a => jsr a
  | .andIndx z => andIndx z
  | .bitZp z => bitZp z
  | .andZp z => andZp z
  | .rolZp z => rolZp z
  | .plp => plp
  | .andImm v => andImm v
  | .rolAcc => rolAcc
  | .bitAbs a => bitAbs a
  | .andAbs a => andAbs a
  | .rolAbs a => rolAbs a
  | .bmi r => bmi r
  | .andIndy z => andIndy z
  | .andZpx z => andZpx z
  | .rolZpx z => rolZpx z
  | .sec => sec
  | .andAbsy a => andAbsy a
  | .andAbsx a => andAbsx a
  | .rolAbsx a => rolAbsx a
  | .rti => rti
  | .eorIndx z => eorIndx z
  | .eorZp z => eorZp z
  | .lsrZp z => lsrZp z
  | .pha => pha
  | .eorImm v => eorImm v
  | .lsrAcc => lsrAcc
  | .jmpAbs a => jmpAbs a
  | .eorAbs a => eorAbs a
  | .lsrAbs a => lsrAbs a
  | .bvc r => bvc r
  | .eorIndy z => eorIndy z
  | .eorZpx z => eorZpx z
  | .lsrZpx z => lsrZpx z
  | .cli => cli
  | .eorAbsy a => eorAbsy a
  | .eorAbsx a => eorAbsx a
  | .lsrAbsx a => lsrAbsx a
  | .rts => rts
  | .adcIndx z => adcIndx z
  | .adcZp z => adcZp z
  | .rorZp z => rorZp z
  | .pla => pla
  | .adcImm v => adcImm v
  | .rorAcc => rorAcc
  | .jmpInd a => jmpInd a
  | .adcAbs a => adcAbs a
  | .rorAbs a => rorAbs a
  | .bvs r => bvs r
  | .adcIndy z => adcIndy z
  | .adcZpx z => adcZpx z
  | .rorZpx z => rorZpx z
  | .sei => sei
  | .adcAbsy a => adcAbsy a
  | .adcAbsx a => adcAbsx a
  | .rorAbsx a => rorAbsx a
  | .staIndx z => staIndx z
  | .styZp z => styZp z
  | .staZp z => staZp z
  | .stxZp z => stxZp z
  | .dey => dey
  | .txa => txa
  | .styAbs a => styAbs a
  | .staAbs a => staAbs a
  | .stxAbs a => stxAbs a
  | .bcc r => bcc r
  | .staIndy z => staIndy z
  | .styZpx z => styZpx z
  | .staZpx z => staZpx z
  | .stxZpy z => stxZpy z
  | .tya => tya
  | .staAbsy a => staAbsy a
  | .txs => txs
  | .staAbsx a => staAbsx a
  | .ldyImm v => ldyImm v
  | .ldaIndx z => ldaIndx z
  | .ldxImm v => ldxImm v
  | .ldyZp z => ldyZp z
  | .ldaZp z => ldaZp z
  | .ldxZp z => ldxZp z
  | .tay => tay
  | .ldaImm v => ldaImm v
  | .tax => tax
  | .ldyAbs a => ldyAbs a
  | .ldaAbs a => ldaAbs a
  | .ldxAbs a => ldxAbs a
  | .bcs r => bcs r
  | .ldaIndy z => ldaIndy z
  | .ldyZpx z => ldyZpx z
  | .ldaZpx z => ldaZpx z
  | .ldxZpy z => ldxZpy z
  | .clv => clv
  | .ldaAbsy a => ldaAbsy a
  | .tsx => tsx
  | .ldyAbsx a => ldyAbsx a
  | .ldaAbsx a => ldaAbsx a
  | .ldxAbsy a => ldxAbsy a
  | .cpyImm v => cpyImm v
  | .cmpIndx z => cmpIndx z
  | .cpyZp z => cpyZp z
  | .cmpZp z => cmpZp z
  | .decZp z => decZp z
  | .iny => iny
  | .cmpImm v => cmpImm v
  | .dex => dex
  | .cpyAbs a => cpyAbs a
  | .cmpAbs a => cmpAbs a
  | .decAbs a => decAbs a
  | .bne r => bne r
  | .cmpIndy z => cmpIndy z
  | .cmpZpx z => cmpZpx z
  | .decZpx z => decZpx z
  | .cld => cld
  | .cmpAbsy a => cmpAbsy a
  | .cmpAbsx a => cmpAbsx a
  | .decAbsx a => decAbsx a
  | .cpxImm v => cpxImm v
  | .sbcIndx z => sbcIndx z
  | .cpxZp z => cpxZp z
  | .sbcZp z => sbcZp z
  | .incZp z => incZp z
  | .inx => inx
  | .sbcImm v => sbcImm v
  | .nop => nop
  | .cpxAbs a => cpxAbs a
  | .sbcAbs a => sbcAbs a
  | .incAbs a => incAbs a
  | .beq r => beq r
  | .sbcIndy z => sbcIndy z
  | .sbcZpx z => sbcZpx z
  | .incZpx z => incZpx z
  | .sed => sed
  | .sbcAbsy a => sbcAbsy a
  | .sbcAbsx a => sbcAbsx a
  | .incAbsx a => incAbsx a

end Sys2Proof.Laws.TableRow
end

