-- ==== Sys2Proof/Laws/Ppu.lean ====
section
/-! SUPPORT. The laws of PPU memory and of the writes that reach it: which cell a write changes, that the index it uses lies in its
memory, and that every bus access keeps the memories in their canonical form and size. -/

namespace Sys2Proof.Machine

/-! ## Where an access goes -/

/-- An access to the PPU's window is one to the register its address mod 8 names (20_memory.md R85). -/
theorem busRead_window {a : Addr} (s : State) (h1 : 0x2000 ≤ a.toNat) (h2 : a.toNat < 0x4000) :
    busRead a s = ppuRegRead (ppuRegAt a) s := by
  simp [busRead, h2, show ¬ a.toNat < 0x2000 by omega]

theorem busWrite_window {a : Addr} (v : Byte) (s : State) (h1 : 0x2000 ≤ a.toNat) (h2 : a.toNat < 0x4000) :
    busWrite a v s = ppuRegWrite (ppuRegAt a) v s := by
  simp [busWrite, h2, show ¬ a.toNat < 0x2000 by omega]

/-- Outside the window and but for 0x4014, a bus write changes at most RAM. -/
theorem busWrite_outside {a : Addr} {v : Byte} {s t : State} (h1 : a.toNat < 0x2000 ∨ 0x4000 ≤ a.toNat) (h2 : a ≠ Config.dmaPort)
    (h : busWrite a v s = .ok () t) : t.ppu = s.ppu ∧ t.vmem = s.vmem ∧ t.draws = s.draws := by
  unfold busWrite at h
  split at h
  · cases h
    exact ⟨rfl, rfl, rfl⟩
  split at h
  · omega
  split at h
  · unfold ioWrite at h
    split at h
    · simp at h
    · cases h
      exact ⟨rfl, rfl, rfl⟩
  · unfold romWrite at h
    split at h
    · cases h
      exact ⟨rfl, rfl, rfl⟩
    · simp at h

/-- Outside the window a bus read leaves the PPU's registers, and outside 0x2000-0x7FFF it draws no free byte. -/
theorem busRead_outside {a : Addr} {v : Byte} {s t : State} (h1 : a.toNat < 0x2000 ∨ 0x4000 ≤ a.toNat)
    (h : busRead a s = .ok v t) : t.ppu = s.ppu ∧ (a.toNat < 0x2000 ∨ 0x8000 ≤ a.toNat → t.draws = s.draws) := by
  unfold busRead at h
  split at h
  · cases h
    exact ⟨rfl, fun _ => rfl⟩
  split at h
  · omega
  split at h
  · unfold ioRead at h
    split at h
    · simp at h
    · cases h
      exact ⟨rfl, fun _ => by omega⟩
  · cases h
    exact ⟨rfl, fun _ => rfl⟩

/-! ## The indices -/

/-- A nametable index lies in the 2048 bytes of ciram (R105). -/
theorem ntIndex_lt (m : Mirroring) (a : Nat) : ntIndex m a < 2048 := by
  unfold ntIndex
  cases m <;> simp only <;> omega

/-- A palette write lands in the 32 slots and never in a sprite mirror slot (R107, R108). -/
theorem palWriteIndex_spec (a : Nat) :
    palWriteIndex a < 32 ∧ palWriteIndex a ≠ 0x10 ∧ palWriteIndex a ≠ 0x14 ∧ palWriteIndex a ≠ 0x18 ∧ palWriteIndex a ≠ 0x1C := by
  unfold palWriteIndex
  simp only
  split <;> omega

/-! ## PPU memory -/

/-- What a PPU memory write can do when it goes on: nothing, or one cell of one memory, at an index inside it (R102). -/
theorem ppuMemWrite_ok {a : Addr} {v : Byte} {s t : State} (h : ppuMemWrite a v s = .ok () t) :
    ppuAddress a < 0x2000 ∧ s.params.chrWrite = .ignore ∧ t = s ∨
    ppuAddress a < 0x2000 ∧ s.params.chrWrite = .store ∧
      t = s.setVmem { s.vmem with chr := s.vmem.chr.write (ppuAddress a) v } ∨
    0x2000 ≤ ppuAddress a ∧ ppuAddress a < 0x3F00 ∧
      t = s.setVmem { s.vmem with ciram := s.vmem.ciram.write (ntIndex s.params.mirroring (ppuAddress a)) v } ∨
    0x3F00 ≤ ppuAddress a ∧ t = s.setVmem { s.vmem with pal := s.vmem.pal.write (palWriteIndex (ppuAddress a)) v } := by
  simp only [ppuMemWrite, chrMemWrite] at h
  split at h
  · split at h
    · cases h
      exact .inl ⟨by omega, by assumption, rfl⟩
    · cases h
      exact .inr (.inl ⟨by omega, by assumption, rfl⟩)
    · simp at h
  · split at h
    · cases h
      exact .inr (.inr (.inl ⟨by omega, by omega, rfl⟩))
    · cases h
      exact .inr (.inr (.inr ⟨by omega, rfl⟩))

/-- It leaves the PPU's registers and the parameters. -/
theorem ppuMemWrite_frame {a : Addr} {v : Byte} {s t : State} (h : ppuMemWrite a v s = .ok () t) :
    t.ppu = s.ppu ∧ t.params = s.params ∧ t.draws = s.draws ∧ t.vmem.oam = s.vmem.oam := by
  rcases ppuMemWrite_ok h with ⟨-, -, rfl⟩ | ⟨-, -, rfl⟩ | ⟨-, -, rfl⟩ | ⟨-, rfl⟩ <;> exact ⟨rfl, rfl, rfl, rfl⟩

/-! ## The canonical form -/

theorem MemoryInv.of_eq {s t : State} (h : MemoryInv s) (h1 : t.ram = s.ram) (h2 : t.vmem = s.vmem) : MemoryInv t := by
  obtain ⟨a, b, c, d, e⟩ := h
  exact ⟨by rw [h1]; exact a, by rw [h2]; exact b, by rw [h2]; exact c, by rw [h2]; exact d, by rw [h2]; exact e⟩

theorem ppuMemWrite_memoryInv {a : Addr} {v : Byte} {s t : State} (hs : MemoryInv s) (h : ppuMemWrite a v s = .ok () t) :
    MemoryInv t := by
  obtain ⟨m1, m2, m3, m4, m5⟩ := hs
  rcases ppuMemWrite_ok h with ⟨-, -, rfl⟩ | ⟨h1, -, rfl⟩ | ⟨-, -, rfl⟩ | ⟨-, rfl⟩
  · exact ⟨m1, m2, m3, m4, m5⟩
  · exact ⟨m1, ⟨Memory.write_wf _ _ m2.1, Memory.write_below _ m2.2 (by omega)⟩, m3, m4, m5⟩
  · exact ⟨m1, m2, ⟨Memory.write_wf _ _ m3.1, Memory.write_below _ m3.2 (ntIndex_lt _ _)⟩, m4, m5⟩
  · exact ⟨m1, m2, m3, ⟨Memory.write_wf _ _ m4.1, Memory.write_below _ m4.2 (palWriteIndex_spec _).1⟩, m5⟩

theorem ppuRegWrite_memoryInv {r : PpuReg} {v : Byte} {s t : State} (hs : MemoryInv s) (h : ppuRegWrite r v s = .ok () t) :
    MemoryInv t := by
  cases r <;> simp only [ppuRegWrite, raise_ne_ok, Res.ok.injEq, true_and] at h
  · subst h; exact hs.of_eq rfl rfl
  · subst h; exact hs.of_eq rfl rfl
  · subst h; exact hs.of_eq rfl rfl
  · subst h
    obtain ⟨m1, m2, m3, m4, m5⟩ := hs
    have hb : s.ppu.oamAddr.toNat < 256 := s.ppu.oamAddr.isLt
    exact ⟨m1, m2, m3, m4, ⟨Memory.write_wf _ _ m5.1, Memory.write_below _ m5.2 hb⟩⟩
  · subst h; unfold writeScroll; split <;> exact hs.of_eq rfl rfl
  · subst h; unfold writeAddr; split <;> exact hs.of_eq rfl rfl
  · simp only [writeData, Res.bind_eq_ok] at h
    obtain ⟨_, u, h1, h2⟩ := h
    cases h2
    exact (ppuMemWrite_memoryInv hs h1).of_eq rfl rfl

theorem oamDma_memoryInv {v : Byte} {s t : State} (hs : MemoryInv s) (h : oamDma v s = .ok () t) : MemoryInv t := by
  simp only [oamDma, Res.bind_eq_ok] at h
  obtain ⟨vs, u, h1, h2⟩ := h
  obtain ⟨e0, -, e2, e3, -⟩ := readBlock_ok h1
  rw [oamTransfer_256 u e0] at h2
  cases h2
  obtain ⟨m1, m2, m3, m4, m5⟩ := hs.of_eq e2 e3
  exact ⟨m1, m2, m3, m4, ⟨Memory.writeList_wf _ _ m5.1, Memory.writeList_below _ m5.2 (by rw [e0]; decide)⟩⟩

/-- Every bus write that goes on keeps the memories in their canonical form and size. -/
theorem busWrite_memoryInv {a : Addr} {v : Byte} {s t : State} (hs : MemoryInv s) (h : busWrite a v s = .ok () t) :
    MemoryInv t := by
  unfold busWrite at h
  split at h
  · cases h
    obtain ⟨m1, m2, m3, m4, m5⟩ := hs
    have hm : a.toNat % Config.ramSize < Config.ramSize := Nat.mod_lt _ (by decide)
    exact ⟨⟨Memory.write_wf _ _ m1.1, Memory.write_below _ m1.2 hm⟩, m2, m3, m4, m5⟩
  split at h
  · exact ppuRegWrite_memoryInv hs h
  split at h
  · exact oamDma_memoryInv hs h
  split at h
  · unfold ioWrite at h
    split at h
    · simp at h
    · cases h; exact hs
  · unfold romWrite at h
    split at h
    · cases h; exact hs
    · simp at h

end Sys2Proof.Machine
end

