-- ==== Sys2Proof/Laws/Reach.lean ====
section
/-! SUPPORT. One induction over all instructions: a relation between states that every bus access keeps, that no write to the CPU's
registers breaks, and that is closed under doing one thing after another, holds between the state an instruction starts in and the
state it leaves, faulted or not. -/

namespace Sys2Proof.Machine

/-- What such a relation must satisfy. -/
structure BusClosed (K : State → State → Prop) : Prop where
  refl : ∀ s, K s s
  trans : ∀ {s t u}, K s t → K t u → K s u
  cpu : ∀ {s t : State}, t = { s with cpu := t.cpu } → t.cpu.macroState = s.cpu.macroState → K s t
  read : ∀ {a s v t}, busRead a s = .ok v t → K s t
  readStop : ∀ {a s t}, busRead a s = .stopped t → K s t
  write : ∀ {a v s t}, busWrite a v s = .ok () t → K s t
  writeStop : ∀ {a v s t}, busWrite a v s = .stopped t → K s t

/-- The state a part of a step leaves, with a value or stopped, is related to `s`. -/
def Res.Within {α : Type} (K : State → State → Prop) (s : State) (r : Res α) : Prop :=
  (∀ a t, r = .ok a t → K s t) ∧ ∀ t, r = .stopped t → K s t

theorem Res.within_bind {α β : Type} {K : State → State → Prop} (hK : BusClosed K) {s : State} {r : Res α}
    {k : α → State → Res β} (h : r.Within K s) (hk : ∀ a t, r = .ok a t → (k a t).Within K t) : (r.bind k).Within K s := by
  cases r with
  | ok a t =>
    have h1 : K s t := h.1 a t rfl
    obtain ⟨h2, h3⟩ := hk a t rfl
    exact ⟨fun b u hu => hK.trans h1 (h2 b u hu), fun u hu => hK.trans h1 (h3 u hu)⟩
  | stopped t => exact ⟨fun _ _ hu => (by cases hu), fun u hu => (by cases hu; exact h.2 t rfl)⟩

theorem Res.within_ok {α : Type} {K : State → State → Prop} {s t : State} {a : α} (h : K s t) : (Res.ok a t).Within K s :=
  ⟨fun _ _ hu => (by cases hu; exact h), fun _ hu => (by cases hu)⟩

/-- A part of a step that begins after some others. -/
theorem Res.Within.after {α : Type} {K : State → State → Prop} {s t : State} {r : Res α} (hr : r.Within K t) (hK : BusClosed K)
    (h : K s t) : r.Within K s :=
  ⟨fun a u hu => hK.trans h (hr.1 a u hu), fun u hu => hK.trans h (hr.2 u hu)⟩

variable {K : State → State → Prop} (hK : BusClosed K)
include hK

theorem busRead_within (a : Addr) (s : State) : (busRead a s).Within K s := ⟨fun _ _ h => hK.read h, fun _ h => hK.readStop h⟩

theorem busWrite_within (a : Addr) (v : Byte) (s : State) : (busWrite a v s).Within K s :=
  ⟨fun _ _ h => hK.write h, fun _ h => hK.writeStop h⟩

theorem push_within (v : Byte) (s : State) : (push v s).Within K s :=
  Res.within_bind hK (busWrite_within hK _ _ _) fun _ _ _ => Res.within_ok (hK.cpu rfl rfl)

theorem pull_within (s : State) : (pull s).Within K s :=
  (busRead_within hK (stackAddr (s.cpu.sp + 1)) (s.setSp (s.cpu.sp + 1))).after hK (hK.cpu rfl rfl)

theorem push16_within (w : Addr) (s : State) : (push16 w s).Within K s :=
  Res.within_bind hK (push_within hK _ _) fun _ _ _ => push_within hK _ _

theorem pull16_within (s : State) : (pull16 s).Within K s :=
  Res.within_bind hK (pull_within hK _) fun _ _ _ =>
    Res.within_bind hK (pull_within hK _) fun _ _ _ => Res.within_ok (hK.refl _)

theorem readWord_within (a : Addr) (s : State) : (readWord a s).Within K s :=
  Res.within_bind hK (busRead_within hK _ _) fun _ _ _ =>
    Res.within_bind hK (busRead_within hK _ _) fun _ _ _ => Res.within_ok (hK.refl _)

theorem fetchByte_within (s : State) : (fetchByte s).Within K s :=
  Res.within_bind hK (busRead_within hK _ _) fun _ _ _ => Res.within_ok (hK.cpu rfl rfl)

/-- Entering an interrupt. -/
theorem enterInterrupt_within (ret : Addr) (b : Bool) (vector : Addr) (s : State) : (enterInterrupt ret b vector s).Within K s := by
  refine Res.within_bind hK (push16_within hK _ _) fun _ _ _ => Res.within_bind hK (push_within hK _ _) fun _ _ _ => ?_
  exact Res.within_bind hK ((readWord_within hK _ _).after hK (hK.cpu rfl rfl)) fun _ _ _ => Res.within_ok (hK.cpu rfl rfl)

/-- Returning from an interrupt. -/
theorem returnFromInterrupt_within (s : State) : (returnFromInterrupt s).Within K s := by
  exact Res.within_bind hK (pull_within hK _) fun _ _ _ =>
    Res.within_bind hK ((pull16_within hK _).after hK (hK.cpu rfl rfl)) fun _ _ _ => Res.within_ok (hK.cpu rfl rfl)

/-- Finding an address, for a mode that has one. -/
theorem operandAddr_within {o : Operand} (s : State) (ho : modeHasAddress o.mode = true) : (operandAddr o s).Within K s := by
  cases o <;> simp only [Operand.mode, modeHasAddress, Bool.false_eq_true] at ho <;>
    first
    | exact Res.within_ok (hK.refl _)
    | exact Res.within_bind hK (busRead_within hK _ _) fun _ _ _ =>
        Res.within_bind hK (busRead_within hK _ _) fun _ _ _ => Res.within_ok (hK.refl _)

/-- Reading a value, for a mode that has one. -/
theorem operandValue_within {o : Operand} (s : State) (ho : modeHasValue o.mode = true) : (operandValue o s).Within K s := by
  by_cases ha : modeHasAddress o.mode = true ∧ o.mode ≠ .ind
  · rw [operandValue_eq_read s ha.1 ha.2]
    exact Res.within_bind hK (operandAddr_within hK s ha.1) fun _ _ _ => busRead_within hK _ _
  · cases o <;> simp [Operand.mode, modeHasAddress, modeHasValue] at ha ho <;> exact Res.within_ok (hK.refl _)

/-- A read-modify-write whose continuation writes registers only. -/
theorem readModifyWrite_within {o : Operand} {f : Byte → Byte} {k : Byte → State → Res Unit} (s : State)
    (ho : o = .acc ∨ modeHasAddress o.mode = true) (hk : ∀ m t, (k m t).Within K t) : (readModifyWrite o f k s).Within K s := by
  by_cases hacc : o = .acc
  · subst hacc
    exact (hk s.cpu.a (s.setA (f s.cpu.a))).after hK (hK.cpu rfl rfl)
  · have ha : modeHasAddress o.mode = true := ho.resolve_left hacc
    have e : readModifyWrite o f k s =
        (operandAddr o s).bind fun a s => (busRead a s).bind fun m s => (busWrite a (f m) s).bind fun _ s => k m s := by
      cases o <;> first | rfl | exact absurd rfl hacc
    rw [e]
    exact Res.within_bind hK (operandAddr_within hK s ha) fun _ _ _ => Res.within_bind hK (busRead_within hK _ _) fun _ _ _ =>
      Res.within_bind hK (busWrite_within hK _ _ _) fun _ _ _ => hk _ _

/-- The operation of a mnemonic on an operand of one of its modes. -/
theorem operation_within {m : Mnemonic} {o : Operand} (s : State) (hm : o.mode ∈ m.modes) : (operation m o s).Within K s := by
  have value (h : ∀ d ∈ m.modes, modeHasValue d = true) (k : Byte → State → Res Unit) (hk : ∀ v t, (k v t).Within K t) :
      ((operandValue o s).bind k).Within K s :=
    Res.within_bind hK (operandValue_within hK s (h _ hm)) fun v t _ => hk v t
  have addr (h : ∀ d ∈ m.modes, modeHasAddress d = true) (k : Addr → State → Res Unit) (hk : ∀ a t, (k a t).Within K t) :
      ((operandAddr o s).bind k).Within K s :=
    Res.within_bind hK (operandAddr_within hK s (h _ hm)) fun a t _ => hk a t
  have modify (h : ∀ d ∈ m.modes, d = .acc ∨ modeHasAddress d = true) (f : Byte → Byte) (k : Byte → State → Res Unit)
      (hk : ∀ v t, (k v t).Within K t) : (readModifyWrite o f k s).Within K s := by
    refine readModifyWrite_within hK s ?_ hk
    rcases h _ hm with h | h
    · left
      cases o <;> first | rfl | cases h
    · exact .inr h
  have jumpTo (c : Bool) (h : ∀ d ∈ m.modes, d = .rel) : (branch c o s).Within K s := by
    have hr := h _ hm
    cases o <;> simp only [Operand.mode, reduceCtorEq] at hr
    cases c
    · exact Res.within_ok (hK.refl _)
    · exact Res.within_ok (hK.cpu rfl rfl)
  cases m
  case ADC | SBC | AND | ORA | EOR | CMP | CPX | CPY | BIT | LDA | LDX | LDY =>
    exact value (by decide) _ fun _ _ => Res.within_ok (hK.cpu rfl rfl)
  case STA | STX | STY => exact addr (by decide) _ fun _ _ => busWrite_within hK _ _ _
  case ASL | LSR | ROL | ROR | INC | DEC =>
    simp only [operation, shift, stepMemory]
    exact modify (by decide) _ _ fun _ _ => Res.within_ok (hK.cpu rfl rfl)
  case BCC | BCS | BEQ | BNE | BMI | BPL | BVC | BVS => exact jumpTo _ (by decide)
  case JMP => exact addr (by decide) _ fun _ _ => Res.within_ok (hK.cpu rfl rfl)
  case JSR =>
    have ha : modeHasAddress o.mode = true := (by decide : ∀ d ∈ Mnemonic.JSR.modes, modeHasAddress d = true) _ hm
    exact Res.within_bind hK (push16_within hK _ _) fun _ _ _ =>
      Res.within_bind hK (operandAddr_within hK _ ha) fun _ _ _ => Res.within_ok (hK.cpu rfl rfl)
  case RTS => exact Res.within_bind hK (pull16_within hK _) fun _ _ _ => Res.within_ok (hK.cpu rfl rfl)
  case BRK => exact enterInterrupt_within hK _ _ _ _
  case RTI => exact returnFromInterrupt_within hK _
  case PHA | PHP => exact push_within hK _ _
  case PLA | PLP => exact Res.within_bind hK (pull_within hK _) fun _ _ _ => Res.within_ok (hK.cpu rfl rfl)
  case NOP => exact Res.within_ok (hK.refl _)
  all_goals exact Res.within_ok (hK.cpu rfl rfl)

/-- exec: what an instruction starts in and what it leaves are related. -/
theorem exec_within {i : Instr} {s t : State} (h : exec i s = .next t) : K s t := by
  rw [exec_eq_operation] at h
  obtain ⟨h1, h2⟩ := operation_within hK s (mode_mem_modes i)
  rcases finish_eq_next_iff.mp h with h | h
  · exact h1 _ _ h
  · exact h2 _ h

end Sys2Proof.Machine
end

