-- ==== Sys2Proof/Laws/Scanline.lean ====
section
/-! SUPPORT. What the scanline engine does: one lemma for each phase, what a line leaves alone, and the run as a number of lines. -/

namespace Sys2Proof.Machine

variable (s : State)

/-! ## The phases -/

/-- Everything the sprite-0 check does. -/
theorem sprite0Check_eq (row : Nat) :
    sprite0Check row s =
      s.setPpu { s.ppu with s0 := s.ppu.s0 || (maskBge s.ppu && maskSpe s.ppu && sprite0Overlaps s row) } := by
  unfold sprite0Check
  cases maskBge s.ppu && maskSpe s.ppu && sprite0Overlaps s row
  · simp [State.setPpu]
  · simp

/-- The phases with the numbers of R9 in place. -/
theorem linePhases_eq :
    linePhases s =
      if s.scan.line ≤ 240 ∧ s.scan.line % 8 = 0 then (tileRow s, 0)
      else if s.scan.line = 241 then (vblankEntry s, 0)
      else if 263 ≤ s.scan.line then (frameBoundary s, 1)
      else (s, 0) := rfl

theorem linePhases_tileRow (h : s.scan.line ≤ 240) (h' : s.scan.line % 8 = 0) : linePhases s = (tileRow s, 0) := by
  rw [linePhases_eq, if_pos ⟨h, h'⟩]

theorem linePhases_vblank (h : s.scan.line = 241) : linePhases s = (vblankEntry s, 0) := by
  rw [linePhases_eq, if_neg (by omega), if_pos h]

theorem linePhases_boundary (h : 263 ≤ s.scan.line) : linePhases s = (frameBoundary s, 1) := by
  rw [linePhases_eq, if_neg (by omega), if_neg (by omega), if_pos h]

theorem linePhases_quiet (h : s.scan.line < 263) (h1 : s.scan.line ≠ 241) (h2 : ¬(s.scan.line ≤ 240 ∧ s.scan.line % 8 = 0)) :
    linePhases s = (s, 0) := by
  rw [linePhases_eq, if_neg h2, if_neg h1, if_neg (by omega)]

/-- The four cases of a line. -/
theorem linePhases_cases :
    (s.scan.line ≤ 240 ∧ s.scan.line % 8 = 0 ∧ linePhases s = (tileRow s, 0)) ∨
    (s.scan.line = 241 ∧ linePhases s = (vblankEntry s, 0)) ∨
    (263 ≤ s.scan.line ∧ linePhases s = (frameBoundary s, 1)) ∨
    (s.scan.line < 263 ∧ s.scan.line ≠ 241 ∧ ¬(s.scan.line ≤ 240 ∧ s.scan.line % 8 = 0) ∧ linePhases s = (s, 0)) := by
  by_cases h1 : s.scan.line ≤ 240 ∧ s.scan.line % 8 = 0
  · exact .inl ⟨h1.1, h1.2, linePhases_tileRow s h1.1 h1.2⟩
  · by_cases h2 : s.scan.line = 241
    · exact .inr (.inl ⟨h2, linePhases_vblank s h2⟩)
    · by_cases h3 : 263 ≤ s.scan.line
      · exact .inr (.inr (.inl ⟨h3, linePhases_boundary s h3⟩))
      · exact .inr (.inr (.inr ⟨by omega, h2, h1, linePhases_quiet s (by omega) h2 h1⟩))

/-- Everything a tile row does but for what it queues: the cursor moves, and S0 may be set. -/
theorem tileRow_eq :
    ∃ (bg : List DrawItem) (s0 : Bool),
      tileRow s = { s with
        scan := { s.scan with rowCursor := s.scan.rowCursor + 1 }
        rend := { s.rend with bg := bg }
        ppu := { s.ppu with s0 := s0 } } ∧
      bg = s.rend.bg ++
        (if maskBge s.ppu then (List.range Config.tileColumns).map (backgroundItem s s.scan.rowCursor) else []) := by
  unfold tileRow
  simp only [sprite0Check_eq]
  cases h : maskBge s.ppu
  · exact ⟨s.rend.bg, s.ppu.s0, by simp [h, State.setScan], by simp⟩
  · exact ⟨_, _, by simp only [State.setScan_ppu, h, if_true]; rfl, rfl⟩

/-- Everything VBlank entry does. -/
theorem vblankEntry_eq :
    vblankEntry s = { s with nmiPending := s.nmiPending || ctrlNmie s.ppu, ppu := { s.ppu with vbl := true } } := by
  unfold vblankEntry ctrlNmie
  cases h : bit s.ppu.ctrl 7 <;> simp [h, State.setPpu, State.setNmi]

/-- Everything the frame boundary does but for what it draws. -/
theorem frameBoundary_eq :
    ∃ fb, frameBoundary s = { s with
        ppu := { s.ppu with vbl := false, s0 := false }
        scan := { s.scan with line := 0, rowCursor := 0 }
        rend := { bg := [], behind := [], front := [], fb := fb }
        published := s.published ++
          [{ x := 0, y := 0, w := 256 * s.params.zoom, h := 240 * s.params.zoom, pixels := fb }] } ∧
      (fbWf s.rend.fb → fbWf fb) := by
  unfold frameBoundary
  cases maskSpe s.ppu
  · exact ⟨_, rfl, compositePasses_wf s⟩
  · exact ⟨_, rfl, compositePasses_wf (evaluateSprites s)⟩

/-- A background item's pattern bytes lie in the pattern tables. -/
theorem backgroundItem_inPatterns (row c : Nat) : itemInPatterns (backgroundItem s row c) := by
  unfold itemInPatterns backgroundItem tilePattern patternBase zext16
  simp only
  generalize ppuMemRead _ s = tile
  have := tile.isLt
  split <;> simp <;> omega

/-! ## What a line leaves alone -/

/-- The parts of the state the scanline engine does not reach. -/
structure SameCpuSide (t : State) : Prop where
  cpu : t.cpu = s.cpu
  ram : t.ram = s.ram
  vmem : t.vmem = s.vmem
  params : t.params = s.params
  draws : t.draws = s.draws
  ctrl : t.ppu.ctrl = s.ppu.ctrl
  mask : t.ppu.mask = s.ppu.mask

theorem SameCpuSide.refl : SameCpuSide s s := ⟨rfl, rfl, rfl, rfl, rfl, rfl, rfl⟩

theorem SameCpuSide.trans {s t u : State} (h : SameCpuSide s t) (k : SameCpuSide t u) : SameCpuSide s u :=
  ⟨k.cpu.trans h.cpu, k.ram.trans h.ram, k.vmem.trans h.vmem, k.params.trans h.params, k.draws.trans h.draws,
    k.ctrl.trans h.ctrl, k.mask.trans h.mask⟩

theorem linePhases_sameCpuSide : SameCpuSide s (linePhases s).1 := by
  rcases linePhases_cases s with ⟨-, -, h⟩ | ⟨-, h⟩ | ⟨-, h⟩ | ⟨-, -, -, h⟩ <;> rw [h]
  · obtain ⟨_, _, e, -⟩ := tileRow_eq s; rw [e]; exact ⟨rfl, rfl, rfl, rfl, rfl, rfl, rfl⟩
  · rw [vblankEntry_eq]; exact ⟨rfl, rfl, rfl, rfl, rfl, rfl, rfl⟩
  · obtain ⟨_, e, -⟩ := frameBoundary_eq s; rw [e]; exact ⟨rfl, rfl, rfl, rfl, rfl, rfl, rfl⟩
  · exact SameCpuSide.refl s

theorem setScan_sameCpuSide (v : Scanline) : SameCpuSide s (s.setScan v) := ⟨rfl, rfl, rfl, rfl, rfl, rfl, rfl⟩

theorem nextLine_sameCpuSide : SameCpuSide s (nextLine s).1 := by
  unfold nextLine
  exact (setScan_sameCpuSide s _).trans (linePhases_sameCpuSide _)

theorem runLines_sameCpuSide (n : Nat) : SameCpuSide s (runLines n s).1 := by
  induction n generalizing s with
  | zero => exact SameCpuSide.refl s
  | succ n ih =>
    rw [runLines]
    split_ifs
    · exact (nextLine_sameCpuSide s).trans (ih _)
    · exact SameCpuSide.refl s

/-- A run of the PPU does not reach the CPU, RAM, the PPU's memories or the parameters. -/
theorem run_sameCpuSide (n : Nat) : SameCpuSide s (run n s).1 := by
  unfold run
  exact (setScan_sameCpuSide s _).trans (runLines_sameCpuSide _ _)

/-! ## One line -/

/-- The counters when a line's phases begin. -/
def Scanline.advanced (e : Scanline) : Scanline := { cycAcc := e.cycAcc - 341, line := e.line + 1, rowCursor := e.rowCursor }

theorem Scanline.advanced_eq (e : Scanline) :
    e.advanced = { cycAcc := e.cycAcc - 341, line := e.line + 1, rowCursor := e.rowCursor } := rfl

theorem nextLine_eq : nextLine s = linePhases (s.setScan s.scan.advanced) := rfl

/-- The counters after a line. -/
theorem nextLine_scan {c : Nat} (hc : s.scan.cycAcc - 341 = c) :
    (nextLine s).1.scan =
      { cycAcc := c
        line := if 262 ≤ s.scan.line then 0 else s.scan.line + 1
        rowCursor := if 262 ≤ s.scan.line then 0
          else if s.scan.line + 1 ≤ 240 ∧ (s.scan.line + 1) % 8 = 0 then s.scan.rowCursor + 1 else s.scan.rowCursor } ∧
    (nextLine s).2 = if 262 ≤ s.scan.line then 1 else 0 := by
  rw [nextLine_eq]
  have ha : s.scan.advanced = { cycAcc := c, line := s.scan.line + 1, rowCursor := s.scan.rowCursor } := by
    subst hc; exact Scanline.advanced_eq _
  rw [ha]
  clear hc ha
  generalize hu : s.setScan { cycAcc := c, line := s.scan.line + 1, rowCursor := s.scan.rowCursor } = u
  replace hu : u.scan = { cycAcc := c, line := s.scan.line + 1, rowCursor := s.scan.rowCursor } := by
    rw [← hu, State.setScan_scan]
  have hl : u.scan.line = s.scan.line + 1 := by rw [hu]
  rcases linePhases_cases u with ⟨h1, h2, h⟩ | ⟨h1, h⟩ | ⟨h1, h⟩ | ⟨h1, h2, h3, h⟩
  · obtain ⟨_, _, e, -⟩ := tileRow_eq u
    have n : ¬262 ≤ s.scan.line := by omega
    rw [hl] at h1 h2
    simp only [h, e, hu, if_neg n, if_pos (And.intro h1 h2), and_self]
  · have n : ¬262 ≤ s.scan.line := by omega
    have m : ¬(s.scan.line + 1 ≤ 240 ∧ (s.scan.line + 1) % 8 = 0) := by omega
    simp only [h, vblankEntry_eq, hu, if_neg n, if_neg m, and_self]
  · obtain ⟨_, e, -⟩ := frameBoundary_eq u
    have n : 262 ≤ s.scan.line := by omega
    simp only [h, e, hu, if_pos n, and_self]
  · have n : ¬262 ≤ s.scan.line := by omega
    rw [hl] at h3
    simp only [h, hu, if_neg n, if_neg h3, and_self]

theorem nextLine_cycAcc {c : Nat} (hc : s.scan.cycAcc - 341 = c) : (nextLine s).1.scan.cycAcc = c := by
  rw [(nextLine_scan s hc).1]

/-- The flags and the layers after a line. -/
theorem nextLine_flags :
    (nextLine s).1.nmiPending = (s.nmiPending || (decide (s.scan.line = 240) && ctrlNmie s.ppu)) ∧
    (nextLine s).1.ppu.vbl = (if s.scan.line = 240 then true else if 262 ≤ s.scan.line then false else s.ppu.vbl) ∧
    (262 ≤ s.scan.line → (nextLine s).1.ppu.s0 = false ∧ (nextLine s).1.rend.bg = [] ∧
      (nextLine s).1.rend.behind = [] ∧ (nextLine s).1.rend.front = []) := by
  rw [nextLine_eq]
  generalize e : s.setScan s.scan.advanced = u
  have hl : u.scan.line = s.scan.line + 1 := by rw [← e, State.setScan_scan]; rfl
  have hp : u.ppu = s.ppu := by rw [← e, State.setScan_ppu]
  have hn : u.nmiPending = s.nmiPending := by rw [← e, State.setScan_nmiPending]
  rcases linePhases_cases u with ⟨h1, h2, h⟩ | ⟨h1, h⟩ | ⟨h1, h⟩ | ⟨h1, h2, h3, h⟩ <;> rw [h]
  · obtain ⟨_, _, e', -⟩ := tileRow_eq u
    rw [e', if_neg (by omega), if_neg (by omega), decide_eq_false (by omega)]
    exact ⟨by simp [hn], by simp [hp], by omega⟩
  · rw [vblankEntry_eq, if_pos (by omega), decide_eq_true (by omega)]
    exact ⟨by simp [hn, hp], rfl, by omega⟩
  · obtain ⟨_, e', -⟩ := frameBoundary_eq u
    rw [e', if_neg (by omega), if_pos (by omega), decide_eq_false (by omega)]
    exact ⟨by simp [hn], rfl, fun _ => ⟨rfl, rfl, rfl, rfl⟩⟩
  · rw [if_neg (by omega), if_neg (by omega), decide_eq_false (by omega)]
    exact ⟨by simp [hn], by simp [hp], by omega⟩

/-- A line keeps the renderer's form. -/
theorem nextLine_renderInv (h : RenderInv s.rend) : RenderInv (nextLine s).1.rend := by
  rw [nextLine_eq]
  generalize e : s.setScan s.scan.advanced = u
  have hu : RenderInv u.rend := by rw [← e, State.setScan_rend]; exact h
  rcases linePhases_cases u with ⟨-, -, h⟩ | ⟨-, h⟩ | ⟨-, h⟩ | ⟨-, -, -, h⟩ <;> rw [h]
  · obtain ⟨bg, _, e', hbg⟩ := tileRow_eq u
    rw [e']
    refine ⟨fun it hi => ?_, hu.behind, hu.front, hu.fb⟩
    replace hi : it ∈ bg := hi
    rw [hbg, List.mem_append] at hi
    rcases hi with hi | hi
    · exact hu.bg it hi
    · split at hi
      · obtain ⟨c, -, rfl⟩ := List.mem_map.mp hi
        exact backgroundItem_inPatterns u _ c
      · cases hi
  · rw [vblankEntry_eq]; exact hu
  · obtain ⟨_, e', hfb⟩ := frameBoundary_eq u
    rw [e']; exact ⟨fun _ hi => (by cases hi), rfl, rfl, hfb hu.fb⟩
  · exact hu

/-! ## The run as a number of lines -/

/-- The loop turns exactly as often as whole lines of credits are left. -/
theorem runLines_turn {k : Nat} (h : (k + 1) * 341 ≤ s.scan.cycAcc) :
    runLines (k + 1) s = ((runLines k (nextLine s).1).1, (nextLine s).2 + (runLines k (nextLine s).1).2) := by
  have h' : Config.cyclesPerLine ≤ s.scan.cycAcc := by show 341 ≤ _; omega
  rw [runLines, if_pos h']

/-- The same state with more credits. -/
def State.addCredits (b : Nat) : State := s.setScan { s.scan with cycAcc := s.scan.cycAcc + b }

theorem State.addCredits_scan (b : Nat) : (s.addCredits b).scan = { s.scan with cycAcc := s.scan.cycAcc + b } := rfl

theorem State.addCredits_setScan (b : Nat) (v : Scanline) : (s.addCredits b).setScan v = s.setScan v := rfl

theorem State.setScan_addCredits (b : Nat) (v : Scanline) :
    (s.setScan v).addCredits b = s.setScan { v with cycAcc := v.cycAcc + b } := rfl

theorem Scanline.advanced_addCredits (e : Scanline) (b : Nat) (h : 341 ≤ e.cycAcc) :
    Scanline.advanced { e with cycAcc := e.cycAcc + b } = { e.advanced with cycAcc := e.advanced.cycAcc + b } := by
  obtain ⟨a, l, r⟩ := e
  have hb : ∀ a, 341 ≤ a → a - 341 + b = a + b - 341 := by omega
  simp only [Scanline.advanced_eq, hb a h]

/-- A line does not see how many credits are left over. -/
theorem nextLine_addCredits (b : Nat) (h : 341 ≤ s.scan.cycAcc) :
    nextLine (s.addCredits b) = ((nextLine s).1.addCredits b, (nextLine s).2) := by
  have e : (s.addCredits b).setScan (s.addCredits b).scan.advanced = (s.setScan s.scan.advanced).addCredits b := by
    rw [State.addCredits_setScan, State.addCredits_scan, State.setScan_addCredits, Scanline.advanced_addCredits _ _ h]
  rw [nextLine_eq, nextLine_eq, e]
  generalize s.setScan s.scan.advanced = u
  rw [linePhases_eq, linePhases_eq]
  simp only [show (u.addCredits b).scan.line = u.scan.line from rfl]
  split_ifs
  · unfold tileRow
    simp only [sprite0Check_eq, show (u.addCredits b).ppu = u.ppu from rfl, State.setScan_ppu]
    split_ifs <;> rfl
  · simp only [vblankEntry_eq]; rfl
  · unfold frameBoundary
    simp only [show (u.addCredits b).ppu = u.ppu from rfl]
    split_ifs <;> rfl
  · rfl

/-- Credits for `k + 1` lines leave credits for `k`. -/
theorem credits_left {k a c : Nat} (h : (k + 1) * 341 ≤ a) (hc : c = a - 341) : k * 341 ≤ c ∧ c - k * 341 = a - (k + 1) * 341 ∧ 341 ≤ a := by
  omega

theorem runLines_addCredits (k b : Nat) (h : k * 341 ≤ s.scan.cycAcc) :
    runLines k (s.addCredits b) = ((runLines k s).1.addCredits b, (runLines k s).2) ∧
      (runLines k s).1.scan.cycAcc = s.scan.cycAcc - k * 341 := by
  induction k generalizing s with
  | zero => rw [Nat.zero_mul]; exact ⟨rfl, rfl⟩
  | succ k ih =>
    obtain ⟨h1, h2, h3⟩ := credits_left h rfl
    rw [← nextLine_cycAcc s rfl] at h1 h2
    obtain ⟨h4, h5⟩ := ih (nextLine s).1 h1
    have h6 : (k + 1) * 341 ≤ (s.addCredits b).scan.cycAcc := Nat.le_trans h (Nat.le_add_right _ _)
    rw [runLines_turn _ h6, runLines_turn s h, nextLine_addCredits s b h3, h4, h5, h2]
    exact ⟨rfl, rfl⟩

/-- Turns of the loop in two parts. -/
theorem runLines_add (k m : Nat) (h : (k + m) * 341 ≤ s.scan.cycAcc) :
    runLines (k + m) s = ((runLines m (runLines k s).1).1, (runLines k s).2 + (runLines m (runLines k s).1).2) := by
  induction k generalizing s with
  | zero => simp [runLines]
  | succ k ih =>
    rw [Nat.succ_add] at h ⊢
    obtain ⟨h1, -, -⟩ := credits_left h rfl
    rw [← nextLine_cycAcc s rfl] at h1
    have h2 : (k + 1) * 341 ≤ s.scan.cycAcc := Nat.le_trans (Nat.mul_le_mul_right _ (by omega)) h
    rw [runLines_turn s h, runLines_turn s h2, ih _ h1, Nat.add_assoc]

/-- A run, as its turns and the credits it leaves. -/
theorem run_eq (n : Nat) : run n s = runLines ((s.scan.cycAcc + n) / 341) (s.addCredits n) := rfl

theorem run_cycAcc (n : Nat) : (run n s).1.scan.cycAcc = (s.scan.cycAcc + n) % 341 := by
  have h : (s.scan.cycAcc + n) / 341 * 341 ≤ (s.addCredits n).scan.cycAcc := by
    show _ ≤ s.scan.cycAcc + n
    omega
  rw [run_eq, (runLines_addCredits (s.addCredits n) _ 0 h).2]
  show s.scan.cycAcc + n - _ = _
  omega

/-- A property of states that every line keeps is kept by a run. -/
theorem run_keeps {K : State → Prop} (h1 : ∀ s c, K s → K (s.setScan { s.scan with cycAcc := c })) (h2 : ∀ s, K s → K (nextLine s).1)
    (n : Nat) (h : K s) : K (run n s).1 := by
  have aux : ∀ k s, K s → K (runLines k s).1 := by
    intro k
    induction k with
    | zero => exact fun _ h => h
    | succ k ih =>
      intro s h
      rw [runLines]
      split_ifs
      · exact ih _ (h2 s h)
      · exact h
  exact aux _ _ (h1 s _ h)

/-- A run keeps the ranges of the counters and leaves less than a line's credits. -/
theorem run_scanInv (n : Nat) (h : s.scan.line < 263) (h' : s.scan.rowCursor = min (s.scan.line / 8) 30) :
    ScanInv (run n s).1.scan := by
  have := run_keeps s (K := fun s => s.scan.line < 263 ∧ s.scan.rowCursor = min (s.scan.line / 8) 30)
    (fun s c h => h)
    (fun s h => by
      rw [(nextLine_scan s rfl).1]
      dsimp only
      split_ifs <;> omega) n ⟨h, h'⟩
  exact ⟨by rw [run_cycAcc]; exact Nat.mod_lt _ (by decide), this.1, this.2⟩

/-- How many frames a number of turns completes: the lines counted are those of whole frames and those of the line counter. -/
theorem runLines_count (k : Nat) (h : s.scan.line < 263) (hc : k * 341 ≤ s.scan.cycAcc) :
    263 * (runLines k s).2 + (runLines k s).1.scan.line = s.scan.line + k ∧ (runLines k s).1.scan.line < 263 := by
  induction k generalizing s with
  | zero => exact ⟨by simp [runLines], h⟩
  | succ k ih =>
    obtain ⟨h1, h2⟩ := nextLine_scan s rfl
    have hl : 263 * (nextLine s).2 + (nextLine s).1.scan.line = s.scan.line + 1 ∧ (nextLine s).1.scan.line < 263 := by
      rw [h1, h2]; dsimp only; split_ifs <;> omega
    have hk := (credits_left hc rfl).1
    rw [← nextLine_cycAcc s rfl] at hk
    have := ih _ hl.2 hk
    rw [runLines_turn s hc]
    dsimp only
    omega

/-- The frames a run completes, from the lines its credits make up. -/
theorem run_count (n : Nat) (h : s.scan.line < 263) :
    263 * (run n s).2 + (run n s).1.scan.line = s.scan.line + (s.scan.cycAcc + n) / 341 := by
  rw [run_eq]
  exact (runLines_count (s.addCredits n) _ h (Nat.div_mul_le_self _ _)).1

/-! ## Publication -/

/-- What a part of a run that answers `r` hands the sink: one block of the screen's size for each frame, after those handed over
before, the last of which shows the framebuffer it leaves; without a frame the framebuffer stays. -/
def Publishes (r : State × Nat) : Prop :=
  ∃ blocks : List Publication,
    r.1.published = s.published ++ blocks ∧ blocks.length = r.2 ∧
    (∀ p ∈ blocks, p.x = 0 ∧ p.y = 0 ∧ p.w = 256 * s.params.zoom ∧ p.h = 240 * s.params.zoom) ∧
    (∀ p, blocks.getLast? = some p → p.pixels = r.1.rend.fb) ∧
    (r.2 = 0 → r.1.rend.fb = s.rend.fb)

/-- A part that leaves the publications and the framebuffer alone, and reports no frame. -/
theorem Publishes.quiet {t : State} (h1 : t.published = s.published) (h2 : t.rend.fb = s.rend.fb) : Publishes s (t, 0) :=
  ⟨[], by simp [h1], rfl, fun _ h => (by cases h), fun _ h => (by cases h), fun _ => h2⟩

/-- One part after another. -/
theorem Publishes.trans {t : State} {m : Nat} {r : State × Nat} (hp : t.params = s.params) (h : Publishes s (t, m))
    (k : Publishes t r) : Publishes s (r.1, m + r.2) := by
  obtain ⟨bs, a1, a2, a3, a4, a5⟩ := h
  obtain ⟨cs, b1, b2, b3, b4, b5⟩ := k
  rw [hp] at b3
  have hb : bs.length = m := a2
  refine ⟨bs ++ cs, by rw [b1, a1, List.append_assoc], by rw [List.length_append, hb, b2], ?_, fun p h => ?_, fun h => ?_⟩
  · exact fun p h => (List.mem_append.mp h).elim (a3 p) (b3 p)
  · rcases List.eq_nil_or_concat cs with rfl | ⟨l, a, rfl⟩
    · rw [List.append_nil] at h
      rw [b5 (by rw [← b2]; rfl)]
      exact a4 p h
    · rw [List.getLast?_append] at h
      exact b4 p (by simpa using h)
  · obtain ⟨h1, h2⟩ : m = 0 ∧ r.2 = 0 := by omega
    rw [b5 h2]
    exact a5 h1

/-- The counters do not matter. -/
theorem Publishes.of_scan {v : Scanline} {r : State × Nat} (h : Publishes (s.setScan v) r) : Publishes s r := by
  obtain ⟨bs, h1, h2, h3, h4, h5⟩ := h
  exact ⟨bs, h1, h2, h3, h4, h5⟩

theorem linePhases_publishes : Publishes s (linePhases s) := by
  rcases linePhases_cases s with ⟨-, -, h⟩ | ⟨-, h⟩ | ⟨-, h⟩ | ⟨-, -, -, h⟩ <;> rw [h]
  · obtain ⟨_, _, e, -⟩ := tileRow_eq s
    rw [e]; exact Publishes.quiet s rfl rfl
  · rw [vblankEntry_eq]; exact Publishes.quiet s rfl rfl
  · obtain ⟨fb, e, -⟩ := frameBoundary_eq s
    rw [e]
    refine ⟨_, rfl, rfl, fun p h => ?_, fun p h => ?_, fun h => absurd h (Nat.succ_ne_zero 0)⟩
    · rw [List.mem_singleton] at h; subst h; exact ⟨rfl, rfl, rfl, rfl⟩
    · cases h; rfl
  · exact Publishes.quiet s rfl rfl

theorem nextLine_publishes : Publishes s (nextLine s) := by
  rw [nextLine_eq]
  generalize s.scan.advanced = v
  exact (linePhases_publishes (s.setScan v)).of_scan

theorem runLines_publishes (k : Nat) : Publishes s (runLines k s) := by
  induction k generalizing s with
  | zero => exact Publishes.quiet s rfl rfl
  | succ k ih =>
    rw [runLines]
    split_ifs
    · exact Publishes.trans s (nextLine_sameCpuSide s).params (nextLine_publishes s) (ih _)
    · exact Publishes.quiet s rfl rfl

/-- A run hands over one block for each frame it reports. -/
theorem run_publishes (n : Nat) : Publishes s (run n s) := by
  rw [run_eq]
  exact (runLines_publishes (s.addCredits n) _).of_scan

/-- A run keeps the renderer's form. -/
theorem run_renderInv (n : Nat) (h : RenderInv s.rend) : RenderInv (run n s).1.rend :=
  run_keeps s (K := fun s => RenderInv s.rend) (fun _ _ h => h) nextLine_renderInv n h

end Sys2Proof.Machine
end

