-- ==== Sys2Proof/Laws/Shapes.lean ====
section
/-! SUPPORT. The shapes of an instruction: what is left of the CPU and of RAM when a value was read, an address found, a byte
written, or a byte read and written back, whether or not a fault cut it short. -/

namespace Sys2Proof.Machine

/-- The answer of a part of a step, with a value or stopped. -/
def Res.LeadsTo (r : Res Unit) (t : State) : Prop := r = .ok () t ∨ r = .stopped t

theorem exec_leadsTo {i : Instr} {s t : State} (h : exec i s = .next t) : (operation i.mnemonic i.operand s).LeadsTo t := by
  rw [exec_eq_operation] at h
  exact finish_eq_next_iff.mp h

/-- The CPU of a state that holds a fault record, but for that record as it was in `s`. -/
def StoppedCpu (s t : State) : Prop := ∃ f, t.cpu = { s.cpu with macroState := .faulted f }

theorem StoppedFrom.cpu {s t : State} (h : StoppedFrom s t) : StoppedCpu s t := by
  obtain ⟨f, h, -⟩ := h
  exact ⟨f, h⟩

/-- An instruction that reads a value and goes on with it. -/
theorem value_shape {o : Operand} {s t : State} {k : Byte → State → Res Unit} (hv : modeHasValue o.mode = true)
    (h : ((operandValue o s).bind k).LeadsTo t) :
    (StoppedCpu s t ∧ t.ram = s.ram ∧ t.vmem = s.vmem) ∨
      ∃ v u, operandValue o s = .ok v u ∧ u.cpu = s.cpu ∧ u.ram = s.ram ∧ u.vmem = s.vmem ∧ (k v u).LeadsTo t := by
  have key : ∀ u, operandValue o s = .stopped u → StoppedCpu s u ∧ u.ram = s.ram ∧ u.vmem = s.vmem := by
    intro u hu
    obtain ⟨a, -, hb⟩ := operandValue_stopped hv hu
    obtain ⟨h1, h2, h3, -⟩ := busRead_stoppedFrom hb
    exact ⟨h1.cpu, h2, h3⟩
  rcases h with h | h
  · obtain ⟨v, u, h1, h2⟩ := Res.bind_eq_ok.mp h
    obtain ⟨f1, f2, f3, -⟩ := operandValue_ok_frame h1
    exact .inr ⟨v, u, h1, f1, f2, f3, .inl h2⟩
  · rcases Res.bind_eq_stopped.mp h with h | ⟨v, u, h1, h2⟩
    · exact .inl (key _ h)
    · obtain ⟨f1, f2, f3, -⟩ := operandValue_ok_frame h1
      exact .inr ⟨v, u, h1, f1, f2, f3, .inr h2⟩

/-- An instruction that finds an address and goes on with it. -/
theorem addr_shape {o : Operand} {s t : State} {k : Addr → State → Res Unit} (ha : modeHasAddress o.mode = true)
    (h : ((operandAddr o s).bind k).LeadsTo t) :
    (StoppedCpu s t ∧ t.ram = s.ram ∧ t.vmem = s.vmem) ∨
      ∃ a u, operandAddr o s = .ok a u ∧ u.cpu = s.cpu ∧ u.ram = s.ram ∧ u.vmem = s.vmem ∧ (k a u).LeadsTo t := by
  rcases h with h | h
  · obtain ⟨v, u, h1, h2⟩ := Res.bind_eq_ok.mp h
    obtain ⟨f1, f2, f3, -⟩ := operandAddr_ok_frame h1
    exact .inr ⟨v, u, h1, f1, f2, f3, .inl h2⟩
  · rcases Res.bind_eq_stopped.mp h with h | ⟨v, u, h1, h2⟩
    · obtain ⟨h1, h2, h3, -⟩ := operandAddr_stopped_frame ha h
      exact .inl ⟨h1.cpu, h2, h3⟩
    · obtain ⟨f1, f2, f3, -⟩ := operandAddr_ok_frame h1
      exact .inr ⟨v, u, h1, f1, f2, f3, .inr h2⟩

/-- RAM is as it was but for the byte an address names. -/
def RamExcept (a : Addr) (s t : State) : Prop := ∀ k, (a.toNat < 0x2000 → k ≠ a.toNat % 2048) → t.ram.read k = s.ram.read k

/-- One bus write. -/
theorem write_shape {a : Addr} {v : Byte} {s t : State} (h : (busWrite a v s).LeadsTo t) :
    (t.cpu = s.cpu ∨ StoppedCpu s t) ∧ RamExcept a s t := by
  rcases h with h | h
  · obtain ⟨h1, -, h2⟩ := busWrite_ok h
    refine ⟨.inl h1, fun k hk => ?_⟩
    rw [h2]
    split
    · next hh => rw [Memory.read_write_ne]; exact hk hh
    · rfl
  · obtain ⟨h1, h2, -⟩ := busWrite_stopped h
    exact ⟨.inr h1.cpu, fun k _ => by rw [h2]⟩

/-- A byte read and written back, and what goes on after the write. -/
theorem rmw_shape {o : Operand} {s t : State} {f : Byte → Byte} {k : Byte → State → Res Unit}
    (ha : modeHasAddress o.mode = true) (hi : o.mode ≠ .ind) (h : (readModifyWrite o f k s).LeadsTo t) :
    ∃ a, operandAddr o s = .ok a s ∧
      (StoppedCpu s t ∧ t.ram = s.ram ∨ ∃ v u, u.cpu = s.cpu ∧ RamExcept a s u ∧ (k v u).LeadsTo t) := by
  obtain ⟨a, u, hu⟩ : ∃ a u, operandAddr o s = .ok a u := by
    rcases he : operandAddr o s with ⟨a, u⟩ | u
    · exact ⟨a, u, rfl⟩
    · exact absurd he (operandAddr_ne_stopped ha hi)
  obtain ⟨rfl, -⟩ := operandAddr_ok hi hu
  refine ⟨a, hu, ?_⟩
  rw [readModifyWrite_mem f k hu] at h
  rcases hb : busRead a u with ⟨m, w⟩ | w
  · rw [hb, Res.bind_ok] at h
    obtain ⟨b1, b2, -⟩ := busRead_ok hb
    rcases hw : busWrite a (f m) w with ⟨_, x⟩ | x
    · rw [hw, Res.bind_ok] at h
      obtain ⟨c1, -⟩ := busWrite_ok hw
      refine .inr ⟨m, x, c1.trans b1, fun k hk => ?_, h⟩
      rw [(write_shape (.inl hw)).2 k hk, b2]
    · rw [hw] at h
      simp only [Res.LeadsTo, Res.bind_stopped, Res.stopped.injEq, reduceCtorEq, false_or] at h
      subst h
      obtain ⟨⟨f, c1, -⟩, c2, -⟩ := busWrite_stopped hw
      exact .inl ⟨⟨f, by rw [c1, b1]⟩, c2.trans b2⟩
  · rw [hb] at h
    simp only [Res.LeadsTo, Res.bind_stopped, Res.stopped.injEq, reduceCtorEq, false_or] at h
    subst h
    obtain ⟨c1, c2, -⟩ := busRead_stoppedFrom hb
    exact .inl ⟨c1.cpu, c2⟩

end Sys2Proof.Machine
end

