-- ==== Sys2Proof/Laws/Step.lean ====
section
/-! SUPPORT. What one step can do, said once; fetching; and reset as one of the machine's resets. -/

namespace Sys2Proof.Machine

/-! ## Fetching -/

/-- A byte that can be peeked is fetched without side effect. -/
theorem fetchByte_of_peek {s : State} {v : Byte} (h : peek s s.cpu.pc = some v) :
    fetchByte s = .ok v (s.setPc (s.cpu.pc + 1)) := by
  rw [fetchByte, busRead_of_peek h]
  rfl

@[simp] theorem peek_setPc (s : State) (a b : Addr) : peek (s.setPc a) b = peek s b := rfl

/-- A fetch keeps what bus reads and the fault of an undefined opcode keep. -/
theorem fetchInstr_within {K : State → State → Prop} (hK : BusClosed K)
    (hf : ∀ s op pc, K s (s.setMacro (.faulted (.illegalOpcode op pc)))) (s : State) : (fetchInstr s).Within K s := by
  refine Res.within_bind hK (fetchByte_within hK s) fun op t _ => ?_
  split
  · exact ⟨fun _ _ h => absurd h (raise_ne_ok _ _ _ _), fun u h => by rw [raise_eq_stopped] at h; rw [← h]; exact hf _ _ _⟩
  · split
    · exact Res.within_ok (hK.refl _)
    · exact Res.within_bind hK (fetchByte_within hK _) fun _ _ _ => Res.within_ok (hK.refl _)
    · exact Res.within_bind hK (fetchByte_within hK _) fun _ _ _ =>
        Res.within_bind hK (fetchByte_within hK _) fun _ _ _ => Res.within_ok (hK.refl _)

/-! ## The step -/

/-- Everything the end of a step does. -/
theorem endStep_eq (c : Nat) (s : State) :
    endStep c s =
      if s.fault = none then
        (run (c * s.params.ppuRatio) (s.setPublished [])).1.setReport
          (.stepped c (run (c * s.params.ppuRatio) (s.setPublished [])).2)
      else (s.setPublished []).setReport .faulted := by
  unfold endStep ppuRun
  cases s.fault <;> simp

/-- NMI entry never faults, and this is what it leaves. -/
theorem nmiEntry_eq (s : State) :
    nmiEntry s = .ok () { s with
      ram := ((s.ram.write (0x100 + s.cpu.sp.toNat) (highByte s.cpu.pc)).write
        (0x100 + (s.cpu.sp - 1).toNat) (lowByte s.cpu.pc)).write (0x100 + (s.cpu.sp - 2).toNat) (pack s.cpu.p false)
      cpu := { s.cpu with
        sp := s.cpu.sp - 3
        pc := word (prgByte s.params 0xFFFA) (prgByte s.params 0xFFFB)
        p := { s.cpu.p with i := true }
        macroState := .running } } := by
  rw [nmiEntry, enterInterrupt_eq _ _ _ (by decide) (by decide)]
  rfl

/-- What one step can do: take the NMI, fault at the fetch, or run the instruction fetched. -/
theorem step_cases {s t : State} (h : step s = .next t) :
    s.fault = none ∧
      ((s.nmiPending = true ∧ ∃ u, nmiEntry (s.setNmi false) = .ok () u ∧ t = endStep 7 u) ∨
       (s.nmiPending = false ∧ ∃ u, fetchInstr s = .stopped u ∧ t = endStep 0 u) ∨
       (s.nmiPending = false ∧ ∃ i u w, fetchInstr s = .ok i u ∧ exec i u = .next w ∧ t = endStep (cpuCost i u) w)) := by
  unfold step at h
  split at h
  · cases h
  · next hf =>
    refine ⟨hf, ?_⟩
    unfold systemStep at h
    cases hn : s.nmiPending
    · rw [hn] at h
      simp only [Bool.false_eq_true, if_false, fetchStep] at h
      split at h
      · next i u hi =>
        obtain ⟨w, hw⟩ := exec_next i u
        simp only [instrStep, hw, Host.Outcome.next.injEq] at h
        exact .inr (.inr ⟨rfl, i, u, w, hi, hw, h.symm⟩)
      · next u hu =>
        rw [Host.Outcome.next.injEq] at h
        exact .inr (.inl ⟨rfl, u, hu, h.symm⟩)
    · rw [hn] at h
      simp only [if_true, nmiStep] at h
      rw [nmiEntry_eq] at h
      rw [Host.Outcome.next.injEq] at h
      exact .inl ⟨rfl, _, nmiEntry_eq _, h.symm⟩

/-! ## Reset -/

/-- State.reset is the reset of the initial parameters with draws of zero. -/
theorem reset_eq_resetWith : State.reset = resetWith Params.initial ResetDraws.zero := by decide

end Sys2Proof.Machine
end

