-- ==== Sys2Proof/Laws/Timing.lean ====
section
/-! SUPPORT. The cost of an instruction: the row of the opcode table it comes from, and when it has the surcharge of OAM DMA. -/

namespace Sys2Proof.Machine

/-- The reference cost a row of the opcode table gives. -/
def rowCost (row : OpcodeRow) (crossed taken : Bool) : Nat :=
  row.cycles +
    match row.extra with
    | .none => 0
    | .pageCross => flag crossed
    | .branch => if taken then 1 + flag crossed else 0

/-- The opcode of an instruction selects a row of the table with its mnemonic and its mode. -/
theorem opcodeRow_opcode (i : Instr) :
    ∃ row ∈ opcodeTable, opcodeRow i.opcode = some row ∧ row.mnemonic = i.mnemonic ∧ row.mode = i.operand.mode := by
  obtain ⟨row, h1, h2⟩ := Option.map_eq_some_iff.mp (Laws.TableRow.all i).1
  simp only [Prod.mk.injEq] at h2
  exact ⟨row, List.mem_of_find?_eq_some h1, h1, h2.2⟩

/-- The reference cost of an instruction is that of its row. -/
theorem referenceCost_eq (i : Instr) (crossed taken : Bool) :
    ∃ row ∈ opcodeTable, row.mnemonic = i.mnemonic ∧ row.mode = i.operand.mode ∧
      referenceCost i.opcode crossed taken = rowCost row crossed taken := by
  obtain ⟨row, h1, h2, h3, h4⟩ := opcodeRow_opcode i
  exact ⟨row, h1, h3, h4, by rw [referenceCost, h2]; rfl⟩

/-- An instruction that stores through its operand has the surcharge exactly when the operand's address is 0x4014. -/
theorem triggersDma_of_addr {i : Instr} {s t : State} {a : Addr} (hm : writesOperand i.mnemonic = true)
    (h : operandAddr i.operand s = .ok a t) : triggersDma i s = decide (a = Config.dmaPort) := by
  have hne : i.operand.mode ≠ .ind := by
    intro e
    have hi := mode_mem_modes i
    rw [e] at hi
    revert hm hi
    cases i.mnemonic <;> decide
  rw [triggersDma, hm, (operandAddr_ok hne h).2, Bool.true_and]
  simp

end Sys2Proof.Machine
end

