-- ==== Sys2Proof/Tests/Slice0.lean ====
section
/-! SUPPORT. The model's own tests. Their expected results are the worked vectors of spec/95_test_vectors.md (named in each
comment), the opcode listing R145, and the examples of the instruction rules. After them stands one witness for each statement
with hypotheses: concrete states and operands that meet them. -/

namespace Sys2Proof.Tests

open Sys2Proof Sys2Proof.Machine

/-! ## Helpers -/

/-- No flag set. -/
def clear : Flags := { c := false, z := false, i := false, d := false, b := false, v := false, n := false }

/-- The reset state with the CPU's registers and RAM given. -/
def cpuState (a x y sp : Byte) (pc : Addr) (p : Flags) (ram : Memory) : State :=
  { State.reset with cpu := { a := a, x := x, y := y, sp := sp, pc := pc, p := p, macroState := .running }, ram := ram }

/-- A state of the CPU that is of no interest to a test but for A and RAM. -/
def withA (a : Byte) (p : Flags := clear) (ram : Memory := []) : State := cpuState a 0 0 0xFF 0x8000 p ram

/-- As withA, for X and Y. -/
def withXY (x y : Byte) (p : Flags := clear) (ram : Memory := []) : State := cpuState 0 x y 0xFF 0x8000 p ram

/-- The image with the bytes given at its start, and the vectors NMI 0x9000, reset 0x8000, BRK 0xA000. -/
def image (bytes : Memory) : Params :=
  { Params.initial with prg := bytes ++ [(0x3FFB, 0x90), (0x3FFD, 0x80), (0x3FFF, 0xA0)] }

/-- The next state of an instruction. -/
def after (i : Instr) (s : State) : Option State :=
  match exec i s with
  | .next t => some t
  | .fault _ => none
  | .refused _ => none

/-- The next state of a step. -/
def afterStep (s : State) : Option State :=
  match step s with
  | .next t => some t
  | .fault _ => none
  | .refused _ => none

/-- A and the flags N, V, Z, C after an instruction. -/
def aNVZC (i : Instr) (s : State) : Option (Byte × Bool × Bool × Bool × Bool) :=
  (after i s).map fun t => (t.cpu.a, t.cpu.p.n, t.cpu.p.v, t.cpu.p.z, t.cpu.p.c)

/-- X, Y and the flags Z, N after an instruction. -/
def xyZN (i : Instr) (s : State) : Option (Byte × Byte × Bool × Bool) :=
  (after i s).map fun t => (t.cpu.x, t.cpu.y, t.cpu.p.z, t.cpu.p.n)

/-- One byte of RAM and the flags Z, N, C after an instruction. -/
def ramZNC (k : Nat) (i : Instr) (s : State) : Option (Byte × Bool × Bool × Bool) :=
  (after i s).map fun t => (t.ram.read k, t.cpu.p.z, t.cpu.p.n, t.cpu.p.c)

/-- PC after an instruction. -/
def pcAfter (i : Instr) (s : State) : Option Addr := (after i s).map fun t => t.cpu.pc

/-- The fault record after an instruction. -/
def faultAfter (i : Instr) (s : State) : Option (Option Fault) := (after i s).map State.fault

/-! ## Well-formedness: terms that the opcode map does not have -/

theorem test_wf_refuses_sta_immediate : RawInstr.wf ⟨.STA, .imm 0x10⟩ = false := by decide
theorem test_wf_refuses_jmp_absx : RawInstr.wf ⟨.JMP, .absx 0x1234⟩ = false := by decide
theorem test_wf_refuses_jsr_indirect : RawInstr.wf ⟨.JSR, .ind 0x1234⟩ = false := by decide
theorem test_wf_refuses_ldx_zpx : RawInstr.wf ⟨.LDX, .zpx 0x10⟩ = false := by decide
theorem test_wf_refuses_inc_accumulator : RawInstr.wf ⟨.INC, .acc⟩ = false := by decide
theorem test_wf_refuses_nop_with_operand : RawInstr.wf ⟨.NOP, .abs 0x1234⟩ = false := by decide
theorem test_wf_refuses_bne_implied : RawInstr.wf ⟨.BNE, .imp⟩ = false := by decide
theorem test_wf_accepts_stx_zpy : RawInstr.wf ⟨.STX, .zpy 0x10⟩ = true := by decide

/-! ## Decoding: every constructor, by the opcode listing R145 and the operand layouts R142 -/

theorem test_decode_row_0 :
    [decode [0x00], decode [0x01, 0x34], decode [0x05, 0x34], decode [0x06, 0x34],
      decode [0x08], decode [0x09, 0x34], decode [0x0A], decode [0x0D, 0x34, 0x12],
      decode [0x0E, 0x34, 0x12]] =
    [.ok .brk [], .ok (.oraIndx 0x34) [], .ok (.oraZp 0x34) [], .ok (.aslZp 0x34) [], .ok .php [],
      .ok (.oraImm 0x34) [], .ok .aslAcc [], .ok (.oraAbs 0x1234) [], .ok (.aslAbs 0x1234) []] := by decide

theorem test_decode_row_1 :
    [decode [0x10, 0x34], decode [0x11, 0x34], decode [0x15, 0x34], decode [0x16, 0x34],
      decode [0x18], decode [0x19, 0x34, 0x12], decode [0x1D, 0x34, 0x12], decode [0x1E, 0x34, 0x12]] =
    [.ok (.bpl 0x34) [], .ok (.oraIndy 0x34) [], .ok (.oraZpx 0x34) [], .ok (.aslZpx 0x34) [], .ok .clc [],
      .ok (.oraAbsy 0x1234) [], .ok (.oraAbsx 0x1234) [], .ok (.aslAbsx 0x1234) []] := by decide

theorem test_decode_row_2 :
    [decode [0x20, 0x34, 0x12], decode [0x21, 0x34], decode [0x24, 0x34], decode [0x25, 0x34],
      decode [0x26, 0x34], decode [0x28], decode [0x29, 0x34], decode [0x2A],
      decode [0x2C, 0x34, 0x12], decode [0x2D, 0x34, 0x12], decode [0x2E, 0x34, 0x12]] =
    [.ok (.jsr 0x1234) [], .ok (.andIndx 0x34) [], .ok (.bitZp 0x34) [], .ok (.andZp 0x34) [], .ok (.rolZp 0x34) [],
      .ok .plp [], .ok (.andImm 0x34) [], .ok .rolAcc [], .ok (.bitAbs 0x1234) [], .ok (.andAbs 0x1234) [],
      .ok (.rolAbs 0x1234) []] := by decide

theorem test_decode_row_3 :
    [decode [0x30, 0x34], decode [0x31, 0x34], decode [0x35, 0x34], decode [0x36, 0x34],
      decode [0x38], decode [0x39, 0x34, 0x12], decode [0x3D, 0x34, 0x12], decode [0x3E, 0x34, 0x12]] =
    [.ok (.bmi 0x34) [], .ok (.andIndy 0x34) [], .ok (.andZpx 0x34) [], .ok (.rolZpx 0x34) [], .ok .sec [],
      .ok (.andAbsy 0x1234) [], .ok (.andAbsx 0x1234) [], .ok (.rolAbsx 0x1234) []] := by decide

theorem test_decode_row_4 :
    [decode [0x40], decode [0x41, 0x34], decode [0x45, 0x34], decode [0x46, 0x34],
      decode [0x48], decode [0x49, 0x34], decode [0x4A], decode [0x4C, 0x34, 0x12],
      decode [0x4D, 0x34, 0x12], decode [0x4E, 0x34, 0x12]] =
    [.ok .rti [], .ok (.eorIndx 0x34) [], .ok (.eorZp 0x34) [], .ok (.lsrZp 0x34) [], .ok .pha [],
      .ok (.eorImm 0x34) [], .ok .lsrAcc [], .ok (.jmpAbs 0x1234) [], .ok (.eorAbs 0x1234) [], .ok (.lsrAbs 0x1234) []] := by decide

theorem test_decode_row_5 :
    [decode [0x50, 0x34], decode [0x51, 0x34], decode [0x55, 0x34], decode [0x56, 0x34],
      decode [0x58], decode [0x59, 0x34, 0x12], decode [0x5D, 0x34, 0x12], decode [0x5E, 0x34, 0x12]] =
    [.ok (.bvc 0x34) [], .ok (.eorIndy 0x34) [], .ok (.eorZpx 0x34) [], .ok (.lsrZpx 0x34) [], .ok .cli [],
      .ok (.eorAbsy 0x1234) [], .ok (.eorAbsx 0x1234) [], .ok (.lsrAbsx 0x1234) []] := by decide

theorem test_decode_row_6 :
    [decode [0x60], decode [0x61, 0x34], decode [0x65, 0x34], decode [0x66, 0x34],
      decode [0x68], decode [0x69, 0x34], decode [0x6A], decode [0x6C, 0x34, 0x12],
      decode [0x6D, 0x34, 0x12], decode [0x6E, 0x34, 0x12]] =
    [.ok .rts [], .ok (.adcIndx 0x34) [], .ok (.adcZp 0x34) [], .ok (.rorZp 0x34) [], .ok .pla [],
      .ok (.adcImm 0x34) [], .ok .rorAcc [], .ok (.jmpInd 0x1234) [], .ok (.adcAbs 0x1234) [], .ok (.rorAbs 0x1234) []] := by decide

theorem test_decode_row_7 :
    [decode [0x70, 0x34], decode [0x71, 0x34], decode [0x75, 0x34], decode [0x76, 0x34],
      decode [0x78], decode [0x79, 0x34, 0x12], decode [0x7D, 0x34, 0x12], decode [0x7E, 0x34, 0x12]] =
    [.ok (.bvs 0x34) [], .ok (.adcIndy 0x34) [], .ok (.adcZpx 0x34) [], .ok (.rorZpx 0x34) [], .ok .sei [],
      .ok (.adcAbsy 0x1234) [], .ok (.adcAbsx 0x1234) [], .ok (.rorAbsx 0x1234) []] := by decide

theorem test_decode_row_8 :
    [decode [0x81, 0x34], decode [0x84, 0x34], decode [0x85, 0x34], decode [0x86, 0x34],
      decode [0x88], decode [0x8A], decode [0x8C, 0x34, 0x12], decode [0x8D, 0x34, 0x12],
      decode [0x8E, 0x34, 0x12]] =
    [.ok (.staIndx 0x34) [], .ok (.styZp 0x34) [], .ok (.staZp 0x34) [], .ok (.stxZp 0x34) [], .ok .dey [],
      .ok .txa [], .ok (.styAbs 0x1234) [], .ok (.staAbs 0x1234) [], .ok (.stxAbs 0x1234) []] := by decide

theorem test_decode_row_9 :
    [decode [0x90, 0x34], decode [0x91, 0x34], decode [0x94, 0x34], decode [0x95, 0x34],
      decode [0x96, 0x34], decode [0x98], decode [0x99, 0x34, 0x12], decode [0x9A],
      decode [0x9D, 0x34, 0x12]] =
    [.ok (.bcc 0x34) [], .ok (.staIndy 0x34) [], .ok (.styZpx 0x34) [], .ok (.staZpx 0x34) [], .ok (.stxZpy 0x34) [],
      .ok .tya [], .ok (.staAbsy 0x1234) [], .ok .txs [], .ok (.staAbsx 0x1234) []] := by decide

theorem test_decode_row_A :
    [decode [0xA0, 0x34], decode [0xA1, 0x34], decode [0xA2, 0x34], decode [0xA4, 0x34],
      decode [0xA5, 0x34], decode [0xA6, 0x34], decode [0xA8], decode [0xA9, 0x34],
      decode [0xAA], decode [0xAC, 0x34, 0x12], decode [0xAD, 0x34, 0x12], decode [0xAE, 0x34, 0x12]] =
    [.ok (.ldyImm 0x34) [], .ok (.ldaIndx 0x34) [], .ok (.ldxImm 0x34) [], .ok (.ldyZp 0x34) [], .ok (.ldaZp 0x34) [],
      .ok (.ldxZp 0x34) [], .ok .tay [], .ok (.ldaImm 0x34) [], .ok .tax [], .ok (.ldyAbs 0x1234) [],
      .ok (.ldaAbs 0x1234) [], .ok (.ldxAbs 0x1234) []] := by decide

theorem test_decode_row_B :
    [decode [0xB0, 0x34], decode [0xB1, 0x34], decode [0xB4, 0x34], decode [0xB5, 0x34],
      decode [0xB6, 0x34], decode [0xB8], decode [0xB9, 0x34, 0x12], decode [0xBA],
      decode [0xBC, 0x34, 0x12], decode [0xBD, 0x34, 0x12], decode [0xBE, 0x34, 0x12]] =
    [.ok (.bcs 0x34) [], .ok (.ldaIndy 0x34) [], .ok (.ldyZpx 0x34) [], .ok (.ldaZpx 0x34) [], .ok (.ldxZpy 0x34) [],
      .ok .clv [], .ok (.ldaAbsy 0x1234) [], .ok .tsx [], .ok (.ldyAbsx 0x1234) [], .ok (.ldaAbsx 0x1234) [],
      .ok (.ldxAbsy 0x1234) []] := by decide

theorem test_decode_row_C :
    [decode [0xC0, 0x34], decode [0xC1, 0x34], decode [0xC4, 0x34], decode [0xC5, 0x34],
      decode [0xC6, 0x34], decode [0xC8], decode [0xC9, 0x34], decode [0xCA],
      decode [0xCC, 0x34, 0x12], decode [0xCD, 0x34, 0x12], decode [0xCE, 0x34, 0x12]] =
    [.ok (.cpyImm 0x34) [], .ok (.cmpIndx 0x34) [], .ok (.cpyZp 0x34) [], .ok (.cmpZp 0x34) [], .ok (.decZp 0x34) [],
      .ok .iny [], .ok (.cmpImm 0x34) [], .ok .dex [], .ok (.cpyAbs 0x1234) [], .ok (.cmpAbs 0x1234) [],
      .ok (.decAbs 0x1234) []] := by decide

theorem test_decode_row_D :
    [decode [0xD0, 0x34], decode [0xD1, 0x34], decode [0xD5, 0x34], decode [0xD6, 0x34],
      decode [0xD8], decode [0xD9, 0x34, 0x12], decode [0xDD, 0x34, 0x12], decode [0xDE, 0x34, 0x12]] =
    [.ok (.bne 0x34) [], .ok (.cmpIndy 0x34) [], .ok (.cmpZpx 0x34) [], .ok (.decZpx 0x34) [], .ok .cld [],
      .ok (.cmpAbsy 0x1234) [], .ok (.cmpAbsx 0x1234) [], .ok (.decAbsx 0x1234) []] := by decide

theorem test_decode_row_E :
    [decode [0xE0, 0x34], decode [0xE1, 0x34], decode [0xE4, 0x34], decode [0xE5, 0x34],
      decode [0xE6, 0x34], decode [0xE8], decode [0xE9, 0x34], decode [0xEA],
      decode [0xEC, 0x34, 0x12], decode [0xED, 0x34, 0x12], decode [0xEE, 0x34, 0x12]] =
    [.ok (.cpxImm 0x34) [], .ok (.sbcIndx 0x34) [], .ok (.cpxZp 0x34) [], .ok (.sbcZp 0x34) [], .ok (.incZp 0x34) [],
      .ok .inx [], .ok (.sbcImm 0x34) [], .ok .nop [], .ok (.cpxAbs 0x1234) [], .ok (.sbcAbs 0x1234) [],
      .ok (.incAbs 0x1234) []] := by decide

theorem test_decode_row_F :
    [decode [0xF0, 0x34], decode [0xF1, 0x34], decode [0xF5, 0x34], decode [0xF6, 0x34],
      decode [0xF8], decode [0xF9, 0x34, 0x12], decode [0xFD, 0x34, 0x12], decode [0xFE, 0x34, 0x12]] =
    [.ok (.beq 0x34) [], .ok (.sbcIndy 0x34) [], .ok (.sbcZpx 0x34) [], .ok (.incZpx 0x34) [], .ok .sed [],
      .ok (.sbcAbsy 0x1234) [], .ok (.sbcAbsx 0x1234) [], .ok (.incAbsx 0x1234) []] := by decide

/-- DE-4 to DE-6. -/
theorem test_decode_undefined :
    [decode [0x02, 0x00], decode [0x1A], decode [0x9E, 0x00, 0x00]] =
    [.illegalOpcode 0x02, .illegalOpcode 0x1A, .illegalOpcode 0x9E] := by decide

theorem test_decode_truncated : [decode [], decode [0xA9], decode [0x4C, 0x00]] = [.truncated, .truncated, .truncated] := by decide

/-- The word JMP $1234 as the opcode table numbers its bits. -/
theorem test_decode_table_word :
    [decodeTableWord 24 0x12344C, decodeTableWord 8 0x4C, decodeTableWord 8 0x02] =
    [some (.jmpAbs 0x1234), some (.jmpAbs 0x0000), none] := by decide

theorem test_encode_jmp : encode (.jmpInd 0x02FF) = [0x6C, 0xFF, 0x02] := by decide

/-! ## Addressing modes (95_test_vectors.md section 2.1) -/

/-- A-3, A-4, A-6, A-7: zero page wraps in page 0, absolute carries into the high byte and wraps in 16 bits. -/
theorem test_indexed_addresses :
    [operandAddr (.zpx 0xF0) (withXY 0x20 0), operandAddr (.absx 0x12F0) (withXY 0x20 0),
      operandAddr (.absx 0xFFF0) (withXY 0x20 0)] =
    [.ok 0x0010 (withXY 0x20 0), .ok 0x1310 (withXY 0x20 0), .ok 0x0010 (withXY 0x20 0)] := by decide

/-- A-10 and A-12: the pointers wrap in zero page, the base takes Y. -/
theorem test_indirect_addresses :
    [operandAddr (.indx 0x05) (withXY 0xFA 0 clear [(0x00, 0x03)]),
      operandAddr (.indy 0x40) (withXY 0 0x01 clear [(0x40, 0xFF), (0x41, 0x02)])] =
    [.ok 0x0300 (withXY 0xFA 0 clear [(0x00, 0x03)]),
      .ok 0x0300 (withXY 0 0x01 clear [(0x40, 0xFF), (0x41, 0x02)])] := by decide

/-- A-6, A-8, A-11, A-12: page crossing. -/
theorem test_page_crossed :
    [pageCrossed (.absx 0x12F0) (withXY 0x20 0), pageCrossed (.absy 0x8000) (withXY 0 0xFF),
      pageCrossed (.indy 0xFF) (withXY 0 0x10 clear [(0x00, 0x03)]),
      pageCrossed (.indy 0x40) (withXY 0 0x01 clear [(0x40, 0xFF), (0x41, 0x02)])] = [true, false, false, true] := by decide

/-! ## Loads, stores and transfers (section 2.2) -/

/-- L-1. -/
theorem test_lda_zero : aNVZC (.ldaImm 0x00) (withA 0x55) = some (0x00, false, false, true, false) := by decide
/-- L-2. -/
theorem test_lda_negative : aNVZC (.ldaImm 0x80) (withA 0x55) = some (0x80, true, false, false, false) := by decide
/-- L-3, and LDX $FF,Y with Y = 2 reads 0x0001 (R201). -/
theorem test_ldx :
    [xyZN (.ldxImm 0xFF) (withXY 0 0), xyZN (.ldxZpy 0xFF) (withXY 0 0x02 clear [(0x001, 0x44)])] =
    [some (0xFF, 0, false, true), some (0x44, 0x02, false, false)] := by decide
/-- L-4, and LDY $FFFF,X with X = 1 reads 0x0000 (R202). -/
theorem test_ldy :
    [xyZN (.ldyImm 0x01) (withXY 0 0), xyZN (.ldyAbsx 0xFFFF) (withXY 0x01 0x77)] =
    [some (0, 0x01, false, false), some (0x01, 0x00, true, false)] := by decide
/-- L-6: STA $0800 aliases ram[0]. -/
theorem test_sta_alias : after (.staAbs 0x0800) (withA 0x42) = some (withA 0x42 clear [(0x000, 0x42)]) := by decide
/-- L-7, and STX $F8,Y with Y = 0x10 writes 0x0008 (R204). -/
theorem test_stx :
    [after (.stxZp 0xFF) (withXY 0x11 0), after (.stxZpy 0xF8) (withXY 0x07 0x10)] =
    [some (withXY 0x11 0 clear [(0x0FF, 0x11)]), some (withXY 0x07 0x10 clear [(0x008, 0x07)])] := by decide
/-- L-8. -/
theorem test_sty_wraps : after (.styZpx 0xF0) (withXY 0x11 0x22) = some (withXY 0x11 0x22 clear [(0x001, 0x22)]) := by decide
/-- A-15: STA $2002 faults without a read, so VBL stays. -/
theorem test_sta_status_faults :
    (after (.staAbs 0x2002) { withA 0 with ppu := { State.reset.ppu with vbl := true } }).map
      (fun t => (t.fault, t.ppu.vbl)) = some (some (.ppuRegisterUndefined .status .write), true) := by decide
/-- L-10, L-11. -/
theorem test_tax_tay :
    [xyZN .tax (withA 0x00), xyZN .tay (withA 0x90)] = [some (0x00, 0, true, false), some (0, 0x90, false, true)] := by decide
/-- L-12, L-13. -/
theorem test_txa_tya :
    [aNVZC .txa (withXY 0x01 0xFF), aNVZC .tya (withXY 0x01 0xFF)] =
    [some (0x01, false, false, false, false), some (0xFF, true, false, false, false)] := by decide
/-- L-14. -/
theorem test_tsx_after_reset : xyZN .tsx State.reset = some (0xFF, 0, false, true) := by decide
/-- L-15: TXS leaves Z and N. -/
theorem test_txs_writes_no_flag :
    (after .txs (withXY 0x00 0 { clear with z := true })).map (fun t => (t.cpu.sp, t.cpu.p.z, t.cpu.p.n)) =
    some (0x00, true, false) := by decide

/-! ## Arithmetic and logic (section 2.3) -/

/-- AR-1, AR-4, AR-6 and AR-7, the last in decimal mode, which changes nothing. -/
theorem test_adc :
    [aNVZC (.adcImm 0x50) (withA 0x50), aNVZC (.adcImm 0x00) (withA 0xFF { clear with c := true }),
      aNVZC (.adcImm 0xD0) (withA 0x90), aNVZC (.adcImm 0x01) (withA 0x09 { clear with d := true })] =
    [some (0xA0, true, true, false, false), some (0x00, false, false, true, true),
      some (0x60, false, true, false, true), some (0x0A, false, false, false, false)] := by decide
/-- AR-8 to AR-12. -/
theorem test_sbc :
    [aNVZC (.sbcImm 0x01) (withA 0x00 { clear with c := true }), aNVZC (.sbcImm 0x01) (withA 0x80 { clear with c := true }),
      aNVZC (.sbcImm 0x05) (withA 0x05), aNVZC (.sbcImm 0xF0) (withA 0x50 { clear with c := true }),
      aNVZC (.sbcImm 0xB0) (withA 0x50 { clear with c := true })] =
    [some (0xFF, true, false, false, false), some (0x7F, false, true, false, true), some (0xFF, true, false, false, false),
      some (0x60, false, false, false, false), some (0xA0, true, true, false, false)] := by decide
/-- AR-14, AR-15: V and C stay. -/
theorem test_and :
    [aNVZC (.andImm 0x3C) (withA 0xF0 { clear with v := true, c := true }), aNVZC (.andImm 0x00) (withA 0xFF)] =
    [some (0x30, false, true, false, true), some (0x00, false, false, true, false)] := by decide
/-- AR-16, AR-17, AR-18. -/
theorem test_ora_eor :
    [aNVZC (.oraImm 0x80) (withA 0x01), aNVZC (.eorImm 0xFF) (withA 0xAA), aNVZC (.eorImm 0xAA) (withA 0xAA)] =
    [some (0x81, true, false, false, false), some (0x55, false, false, false, false), some (0x00, false, false, true, false)] := by
  decide
/-- CP-1, CP-2, CP-3, CP-5. -/
theorem test_cmp :
    [aNVZC (.cmpImm 0x20) (withA 0x10), aNVZC (.cmpImm 0x01) (withA 0xFF), aNVZC (.cmpImm 0xFF) (withA 0x01),
      aNVZC (.cmpImm 0x42) (withA 0x42)] =
    [some (0x10, true, false, false, false), some (0xFF, true, false, false, true), some (0x01, false, false, false, false),
      some (0x42, false, false, true, true)] := by decide
/-- CP-6, CP-7. -/
theorem test_cpx_cpy :
    [aNVZC (.cpxImm 0x10) (withXY 0x10 0xFF), aNVZC (.cpyImm 0x00) (withXY 0x10 0xFF)] =
    [some (0, false, false, true, true), some (0, true, false, false, true)] := by decide
/-- BT-1, BT-2. -/
theorem test_bit :
    [aNVZC (.bitZp 0x10) (withA 0x01 clear [(0x010, 0xC0)]), aNVZC (.bitZp 0x10) (withA 0xFF clear [(0x010, 0x3F)])] =
    [some (0x01, true, true, true, false), some (0xFF, false, false, false, false)] := by decide
/-- ID-1, ID-2. -/
theorem test_inc :
    [ramZNC 0x010 (.incZp 0x10) (withA 0 clear [(0x010, 0xFF)]), ramZNC 0x200 (.incAbs 0x0200) (withA 0 clear [(0x200, 0x7F)])] =
    [some (0x00, true, false, false), some (0x80, false, true, false)] := by decide
/-- ID-3, ID-4. -/
theorem test_dec :
    [ramZNC 0x010 (.decZp 0x10) (withA 0), ramZNC 0x201 (.decAbsx 0x0200) (withXY 0x01 0 clear [(0x201, 0x01)])] =
    [some (0xFF, false, true, false), some (0x00, true, false, false)] := by decide
/-- ID-9: INC $2007 reads the buffer and writes at the pointer the read has moved. -/
theorem test_inc_data_port :
    (after (.incAbs 0x2007) { withA 0 with ppu := { State.reset.ppu with vramAddr := 0x2000, readBuf := 0x10 } }).map
      (fun t => (t.vmem.ciram.read 0x001, t.ppu.vramAddr, t.cpu.p.z, t.cpu.p.n)) = some (0x11, 0x2002, false, false) := by decide
/-- ID-11: INC on PRG-ROM under P_ROM_WRITE = Fault. -/
theorem test_inc_rom_faults :
    faultAfter (.incAbs 0x8000)
      { withA 0 with params := { Params.initial with romWrite := .fault, prg := [(0x0000, 0x41)] } } =
    some (some (.romWrite 0x8000 0x42)) := by decide
/-- ID-5 to ID-8. -/
theorem test_index_registers :
    [xyZN .inx (withXY 0x7F 0), xyZN .iny (withXY 0 0xFF), xyZN .dex (withXY 0x00 0), xyZN .dey (withXY 0 0x01)] =
    [some (0x80, 0, false, true), some (0, 0x00, true, false), some (0xFF, 0, false, true), some (0, 0x00, true, false)] := by
  decide

/-! ## Shifts and rotates (section 2.4) -/

/-- SH-1, SH-3, SH-13. -/
theorem test_asl :
    [aNVZC .aslAcc (withA 0x80), aNVZC .aslAcc (withA 0x40 { clear with c := true })] =
      [some (0x00, false, false, true, true), some (0x80, true, false, false, false)] ∧
    ramZNC 0x310 (.aslAbsx 0x12F0) (withXY 0x20 0 clear [(0x310, 0x01)]) = some (0x02, false, false, false) := by decide
/-- SH-5, SH-6. -/
theorem test_lsr :
    ramZNC 0x020 (.lsrZp 0x20) (withA 0 clear [(0x020, 0x03)]) = some (0x01, false, false, true) ∧
    aNVZC .lsrAcc (withA 0xFF { clear with c := true }) = some (0x7F, false, false, false, true) := by decide
/-- SH-7, SH-9. -/
theorem test_rol :
    aNVZC .rolAcc (withA 0x80) = some (0x00, false, false, true, true) ∧
    ramZNC 0x010 (.rolZp 0x10) (withA 0 { clear with c := true } [(0x010, 0x55)]) = some (0xAB, false, true, false) := by decide
/-- SH-10, SH-12. -/
theorem test_ror :
    aNVZC .rorAcc (withA 0x01 { clear with c := true }) = some (0x80, true, false, false, true) ∧
    ramZNC 0x010 (.rorZp 0x10) (withA 0 clear [(0x010, 0xAA)]) = some (0x55, false, false, false) := by decide

/-! ## Branches, jumps and calls (sections 2.5, 2.6): exec sees PCn in PC -/

/-- A state for a control transfer. -/
def jumpState (pc : Addr) (p : Flags) (sp : Byte := 0xFF) (ram : Memory := []) : State :=
  { cpuState 0 0 0 sp pc p ram with params := image [] }

/-- BR-1, BR-2, BR-3. -/
theorem test_bcc_bcs :
    [pcAfter (.bcc 0x05) (jumpState 0x8002 clear), pcAfter (.bcc 0x05) (jumpState 0x8002 { clear with c := true }),
      pcAfter (.bcs 0x05) (jumpState 0x8002 { clear with c := true })] = [some 0x8007, some 0x8002, some 0x8007] := by decide
/-- BR-4, BR-7. -/
theorem test_beq_bne :
    [pcAfter (.beq 0xF0) (jumpState 0x8012 { clear with z := true }), pcAfter (.bne 0xFE) (jumpState 0x8002 clear)] =
    [some 0x8002, some 0x8000] := by decide
/-- BR-8, BR-9. -/
theorem test_bmi_bpl :
    [pcAfter (.bmi 0x80) (jumpState 0x8002 { clear with n := true }), pcAfter (.bpl 0x7F) (jumpState 0x8002 clear)] =
    [some 0x7F82, some 0x8081] := by decide
/-- BR-10, BR-11. -/
theorem test_bvc_bvs :
    [pcAfter (.bvc 0x02) (jumpState 0x8002 clear), pcAfter (.bvs 0x02) (jumpState 0x8002 clear)] =
    [some 0x8004, some 0x8002] := by decide
/-- BR-2, BR-5, BR-6, BR-8: the reference costs of branches. -/
theorem test_branch_costs :
    [cpuCost (.bcc 0x05) (jumpState 0x8002 { clear with c := true }), cpuCost (.bne 0x10) (jumpState 0x8100 clear),
      cpuCost (.bne 0x20) (jumpState 0x80F2 clear), cpuCost (.bmi 0x80) (jumpState 0x8002 { clear with n := true })] =
    [2, 3, 4, 4] := by decide
/-- SH-13, L-9, M-12: no page cycle for a read-modify-write, the cost of a store, and OAM DMA's surcharge. -/
theorem test_costs :
    [cpuCost (.aslAbsx 0x12F0) (withXY 0x20 0), cpuCost (.staAbs 0x8000) (withA 0), cpuCost (.staAbs 0x4014) (withA 0x02),
      cpuCost (.ldaAbsx 0x12F0) (withXY 0x20 0)] = [7, 4, 517, 5] := by decide
/-- CF-1, CF-2 (E4), A-9. -/
theorem test_jmp :
    [pcAfter (.jmpAbs 0x1234) (jumpState 0x8003 clear),
      pcAfter (.jmpInd 0x02FF) (jumpState 0x8003 clear 0xFF [(0x200, 0x12), (0x2FF, 0x34), (0x300, 0x56)]),
      pcAfter (.jmpInd 0x0300) (jumpState 0x8003 clear 0xFF [(0x301, 0x90)])] = [some 0x1234, some 0x1234, some 0x9000] := by decide
/-- CF-3, CF-5. -/
theorem test_jsr :
    [after (.jsr 0x9000) (jumpState 0x8003 clear 0xFF), after (.jsr 0x9000) (jumpState 0x8003 clear 0x00)] =
    [some (jumpState 0x9000 clear 0xFD [(0x1FE, 0x02), (0x1FF, 0x80)]),
      some (jumpState 0x9000 clear 0xFE [(0x100, 0x80), (0x1FF, 0x02)])] := by decide
/-- CF-4, CF-6. -/
theorem test_rts :
    [after .rts (jumpState 0x9001 clear 0xFD [(0x1FE, 0x02), (0x1FF, 0x80)]),
      after .rts (jumpState 0x9001 clear 0xFE [(0x100, 0x80), (0x1FF, 0x02)])] =
    [some (jumpState 0x8003 clear 0xFF [(0x1FE, 0x02), (0x1FF, 0x80)]),
      some (jumpState 0x8003 clear 0x00 [(0x100, 0x80), (0x1FF, 0x02)])] := by decide
/-- CF-7. -/
theorem test_brk :
    after .brk (jumpState 0x8001 { clear with c := true }) =
    some (jumpState 0xA000 { clear with c := true, i := true } 0xFC [(0x1FD, 0x31), (0x1FE, 0x02), (0x1FF, 0x80)]) := by decide
/-- CF-8, CF-9. -/
theorem test_rti :
    (after .rti (jumpState 0xA001 { clear with c := true, i := true } 0xFC [(0x1FD, 0x31), (0x1FE, 0x02), (0x1FF, 0x80)])).map
      (fun t => (t.cpu.p, t.cpu.sp, t.cpu.pc)) = some ({ clear with c := true, b := true }, 0xFF, 0x8002) ∧
    (after .rti (jumpState 0x8001 clear 0xFC [(0x1FD, 0xFF), (0x1FE, 0x34), (0x1FF, 0x12)])).map
      (fun t => (t.cpu.p, t.cpu.pc)) =
    some ({ c := true, z := true, i := true, d := true, b := true, v := true, n := true }, 0x1234) := by decide

/-! ## Stack, flags and NOP (section 2.7) -/

/-- ST-1, ST-3. -/
theorem test_pha :
    [after .pha (cpuState 0x42 0 0 0xFF 0x8001 clear []), after .pha (cpuState 0x99 0 0 0x00 0x8001 clear [])] =
    [some (cpuState 0x42 0 0 0xFE 0x8001 clear [(0x1FF, 0x42)]), some (cpuState 0x99 0 0 0xFF 0x8001 clear [(0x100, 0x99)])] := by
  decide
/-- ST-4, ST-5. -/
theorem test_php :
    [(after .php (withA 0 { clear with n := true, z := true })).map (fun t => t.ram.read 0x1FF),
      (after .php (withA 0)).map (fun t => t.ram.read 0x1FF)] = [some 0xB2, some 0x30] := by decide
/-- ST-2, ST-8. -/
theorem test_pla :
    [aNVZC .pla (cpuState 0 0 0 0xFE 0x8001 clear [(0x1FF, 0x42)]), aNVZC .pla (cpuState 0x55 0 0 0xFE 0x8001 clear [])] =
    [some (0x42, false, false, false, false), some (0x00, false, false, true, false)] := by decide
/-- ST-6, ST-7. -/
theorem test_plp :
    [(after .plp (cpuState 0 0 0 0xFE 0x8001 clear [(0x1FF, 0xFF)])).map (fun t => t.cpu.p),
      (after .plp (cpuState 0 0 0 0xFE 0x8001 { clear with c := true } [(0x1FF, 0x20)])).map (fun t => t.cpu.p)] =
    [some { c := true, z := true, i := true, d := true, b := true, v := true, n := true }, some clear] := by decide
/-- ST-9 to ST-12. -/
theorem test_flag_instructions :
    [after .clc (withA 0 { clear with c := true }), after .cld (withA 0 { clear with d := true }),
      after .cli (withA 0 { clear with i := true }), after .clv (withA 0 { clear with v := true }),
      after .sec (withA 0), after .sed (withA 0), after .sei (withA 0)] =
    [some (withA 0), some (withA 0), some (withA 0), some (withA 0), some (withA 0 { clear with c := true }),
      some (withA 0 { clear with d := true }), some (withA 0 { clear with i := true })] := by decide
/-- ST-13. -/
theorem test_nop : after .nop (withA 0x12) = some (withA 0x12) := by decide

/-! ## The bus and PPU memory (section 2.9) -/

/-- M-3, M-4, M-6, M-7. -/
theorem test_bus_faults :
    [busRead 0x2008 State.reset, busRead 0x4016 State.reset, busRead 0x4014 State.reset] =
      [raise (.ppuRegisterUndefined .ctrl .read) State.reset, raise (.busUnmapped 0x4016 .read) State.reset,
        raise (.busUnmapped 0x4014 .read) State.reset] ∧
    busWrite 0x4000 0x01 State.reset = raise (.busUnmapped 0x4000 .write) State.reset := by decide
/-- M-8, M-9: a 16 KiB and a 32 KiB image. -/
theorem test_rom_mirror :
    [prgByte { Params.initial with prg := [(0x0123, 0x77)] } 0xC123,
      prgByte { Params.initial with prgUnits := 2, prg := [(0x0123, 0x77), (0x4123, 0x88)] } 0xC123] = [0x77, 0x88] := by decide
/-- M-1. -/
theorem test_ram_alias :
    busWrite 0x1801 0x77 State.reset = .ok () { State.reset with ram := [(0x001, 0x77)] } := by decide
/-- M-12, M-15: the bytes OAM DMA reads, in order, from RAM and from PRG-ROM. -/
theorem test_oam_dma_reads :
    readBlock 3 0x0200 { State.reset with ram := [(0x201, 0x01), (0x202, 0x02)] } =
      .ok [0x00, 0x01, 0x02] { State.reset with ram := [(0x201, 0x01), (0x202, 0x02)] } ∧
    readBlock 2 0x8000 (withA 0) = .ok [0x00, 0x00] (withA 0) := by decide
/-- M-13, M-14. -/
theorem test_oam_dma_faults :
    [busWrite 0x4014 0x20 State.reset, busWrite 0x4014 0x40 State.reset] =
    [raise (.ppuRegisterUndefined .ctrl .read) State.reset, raise (.busUnmapped 0x4000 .read) State.reset] := by decide
/-- PA-2 to PA-6. -/
theorem test_nametable_index :
    [ntIndex .vertical 0x2800, ntIndex .vertical 0x2400, ntIndex .horizontal 0x2400, ntIndex .horizontal 0x2C05,
      ntIndex .vertical 0x3005] = [0x000, 0x400, 0x000, 0x405, 0x005] := by decide
/-- PA-7 to PA-12. -/
theorem test_palette_index :
    [palReadIndex false 0x3F10, palReadIndex false 0x3F04, palReadIndex false 0x3F14, palReadIndex true 0x3F14,
      palReadIndex false 0x3F21, palWriteIndex 0x3F10, palWriteIndex 0x3F04, palWriteIndex 0x3F14] =
    [0x00, 0x00, 0x04, 0x00, 0x01, 0x00, 0x04, 0x04] := by decide

/-! ## PPU registers (section 2.10) -/

/-- Writes to CPU addresses one after another. -/
def writes : List (Addr × Byte) → State → Option State
  | [], s => some s
  | (a, v) :: rest, s =>
    match busWrite a v s with
    | .ok _ t => writes rest t
    | .stopped _ => none

/-- PR-5, PR-6, PR-7: the toggle PPUSCROLL and PPUADDR share. -/
theorem test_toggle :
    [(writes [(0x2005, 0x08), (0x2005, 0x10)] State.reset).map (fun t => (t.ppu.scrollX, t.ppu.scrollY, t.ppu.vramAddr, t.ppu.w)),
      (writes [(0x2005, 0x08), (0x2006, 0x3F)] State.reset).map (fun t => (t.ppu.scrollX, t.ppu.scrollY, t.ppu.vramAddr, t.ppu.w)),
      (writes [(0x2006, 0x3F), (0x2006, 0x10)] State.reset).map
        (fun t => (t.ppu.scrollX, t.ppu.scrollY, t.ppu.vramAddr, t.ppu.w))] =
    [some (0x08, 0x10, 0x0000, .first), some (0x08, 0x00, 0x003F, .first), some (0x00, 0x00, 0x3F10, .first)] := by decide
/-- PR-9, PR-11. -/
theorem test_oam_and_data_ports :
    (writes [(0x2003, 0xFF), (0x2004, 0x12)] State.reset).map (fun t => (t.vmem.oam, t.ppu.oamAddr)) =
      some ([(0xFF, 0x12)], 0x00) ∧
    (writes [(0x2000, 0x04), (0x2006, 0x20), (0x2006, 0x00), (0x2007, 0x24)] State.reset).map
      (fun t => (t.vmem.ciram, t.ppu.vramAddr)) = some ([(0x000, 0x24)], 0x2020) := by decide
/-- E7 and PR-14: the read buffer, and a palette read at the end of the address space. -/
theorem test_data_reads :
    (match readData { State.reset with
        vmem := { State.reset.vmem with ciram := [(0x000, 0x5A)] }, ppu := { State.reset.ppu with vramAddr := 0x2000 } } with
      | .ok v t => some (v, t.ppu.readBuf, t.ppu.vramAddr)
      | .stopped _ => none) = some (0x00, 0x5A, 0x2001) ∧
    (match readData { State.reset with
        vmem := { State.reset.vmem with pal := [(0x1F, 0x2A)] }, ppu := { State.reset.ppu with vramAddr := 0xFFFF } } with
      | .ok v t => some (v, t.ppu.readBuf, t.ppu.vramAddr)
      | .stopped _ => none) = some (0x2A, 0x00, 0x0000) := by decide
/-- PR-18. -/
theorem test_pattern_write_faults :
    (match busWrite 0x2007 0x01 { State.reset with params := { Params.initial with chrWrite := .fault } } with
      | .ok _ _ => none
      | .stopped t => t.fault) = some (.chrWrite 0x0000 0x01) := by decide

/-! ## The scanline engine (section 2.11) -/

/-- SC-3, SC-4. -/
theorem test_lines :
    (run 2728 State.reset).1.scan = { cycAcc := 0, line := 8, rowCursor := 1 } ∧
    (run 700 { State.reset with scan := { cycAcc := 0, line := 7, rowCursor := 0 } }).1.scan =
      { cycAcc := 18, line := 9, rowCursor := 1 } := by decide
/-- SC-6, SC-9, each from the line before. -/
theorem test_vblank_and_frame :
    (let r := run 341 { State.reset with
        scan := { cycAcc := 0, line := 240, rowCursor := 30 }, ppu := { State.reset.ppu with ctrl := 0x80 } };
      (r.1.ppu.vbl, r.1.nmiPending, r.2)) = (true, true, 0) ∧
    (let r := run 341 { State.reset with
        scan := { cycAcc := 0, line := 262, rowCursor := 30 }, ppu := { State.reset.ppu with vbl := true, s0 := true } };
      (r.1.ppu.vbl, r.1.ppu.s0, r.1.scan, r.2)) = (false, false, { cycAcc := 0, line := 0, rowCursor := 0 }, 1) := by decide
/-- The state of SC-12 at the line before a boundary: sprite 0 at Y 0x20, both enables. -/
def sprite0State (y : Byte) (row : Nat) : State :=
  { State.reset with
    ppu := { State.reset.ppu with mask := 0x18 }, vmem := { State.reset.vmem with oam := [(0x00, y)] }
    scan := { cycAcc := 0, line := 8 * row + 7, rowCursor := row } }
/-- SC-12, SC-15. -/
theorem test_sprite0 :
    [(run 341 (sprite0State 0x20 3)).1.ppu.s0, (run 341 (sprite0State 0x20 4)).1.ppu.s0, (run 341 (sprite0State 0xEF 29)).1.ppu.s0] =
    [false, true, false] := by decide
/-- BG-3, BG-4, BG-6, BG-7: tile addresses, attribute addresses and shifts of scrolled positions. -/
theorem test_background_addresses :
    [(tileAddr 43 21, attrAddr 43 21, attrShift 43 21), (tileAddr 256 0, attrAddr 256 0, attrShift 256 0),
      (tileAddr 0 248, attrAddr 0 248, attrShift 0 248), (tileAddr 48 40, attrAddr 48 40, attrShift 48 40)] =
    [(0x2045, 0x23C1, 4), (0x2400, 0x27C0, 0), (0x2820, 0x2BC0, 0), (0x20A6, 0x23C9, 2)] := by decide
/-- BG-5, BG-6: scrolled positions. -/
theorem test_scrolled_positions :
    scrolledX { State.reset.ppu with ctrl := 0x01 } 31 = 504 ∧ scrolledY { State.reset.ppu with scrollY := 16 } 29 = 248 := by decide
/-- SP-1, SP-3: the items of a sprite, and the layer. -/
theorem test_sprite_items :
    (let s := { State.reset with
        ppu := { State.reset.ppu with ctrl := 0x08 }
        vmem := { State.reset.vmem with oam := [(0x08, 0x10), (0x09, 0x05), (0x0A, 0x63), (0x0B, 0x40)] } };
      (spriteBehind s 2, spriteItems s 2)) =
      (true, [{ pat := 0x1050, palBase := 0x3F1C, sprite := some 2, palette := 3, x := 64, y := 0x11, hflip := true, vflip := false }]) ∧
    (let s := { State.reset with
        ppu := { State.reset.ppu with ctrl := 0x20 }
        vmem := { State.reset.vmem with oam := [(0x04, 0x20), (0x05, 0x07), (0x06, 0x80)] } };
      (spriteBehind s 1, (spriteItems s 1).map fun it => (it.pat, it.y, it.vflip))) =
      (false, [(0x1070, 0x21, true), (0x1060, 0x29, true)]) := by decide

/-! ## The compositor (section 2.12) -/

/-- Tile 1 (only its first pixel opaque), tile 2 (all opaque), and the palette of the vectors. -/
def pictureState (bg behind front : List DrawItem) : State :=
  { State.reset with
    vmem := { State.reset.vmem with
      chr := [(0x10, 0x80), (0x20, 0xFF), (0x21, 0xFF), (0x22, 0xFF), (0x23, 0xFF), (0x24, 0xFF), (0x25, 0xFF), (0x26, 0xFF), (0x27, 0xFF)]
      pal := [(0x00, 0x0F), (0x01, 0x30), (0x11, 0x16), (0x15, 0x27)] }
    rend := { bg := bg, behind := behind, front := front, fb := [] } }

/-- The background item of C-1. -/
def bgItem : DrawItem :=
  { pat := 0x0010, palBase := 0x3F00, sprite := none, palette := 0, x := 0, y := 0, hflip := false, vflip := false }

/-- An opaque sprite of tile 2. -/
def opaqueSprite (i : Fin 64) (palette : BitVec 2) (palBase : Addr) (x : Int) : DrawItem :=
  { pat := 0x0020, palBase := palBase, sprite := some i, palette := palette, x := x, y := 0, hflip := false, vflip := false }

/-- The colour the top row of such a picture shows in column `px`. -/
def shown (s : State) (px : Int) : Pixel := priorityColour (Spec.itemValue s) (Spec.colour s) s.rend px 0 0

/-- C-2: the background wins where it is opaque, the behind sprite shows where it is not. -/
theorem test_priority_behind :
    shown (pictureState [bgItem] [opaqueSprite 0 0 0x3F10 0] []) 0 = Config.systemPalette 0x30 ∧
    shown (pictureState [bgItem] [opaqueSprite 0 0 0x3F10 0] []) 1 = Config.systemPalette 0x16 := ⟨rfl, rfl⟩
/-- C-1, C-4: the unmasked pass draws pattern value 0, and among front sprites the higher index wins. -/
theorem test_priority_order :
    fbGet (drawPixel (pictureState [] [] []) false bgItem 1 0 []) 1 0 = Config.systemPalette 0x0F ∧
    shown (pictureState [] [] [opaqueSprite 3 0 0x3F10 0, opaqueSprite 7 1 0x3F14 0]) 0 =
      Config.systemPalette 0x27 := ⟨rfl, rfl⟩
/-- C-6, C-8: flips choose the pattern column, and pixels off the screen are not written. -/
theorem test_composite_flip_and_clip :
    [itemValue (pictureState [] [] []) { bgItem with hflip := true } 7 0, itemValue (pictureState [] [] []) { bgItem with hflip := true } 0 0] =
      [1, 0] ∧
    [onScreen 255 0, onScreen 256 0, onScreen 0 239, onScreen 0 240, onScreen (-1) 0] = [true, false, true, false, false] := by decide

/-- R429, R495: the frame boundary hands the sink one block, after those of this step. -/
theorem test_frame_is_published :
    (let s := State.reset.setScan { cycAcc := 340, line := 262, rowCursor := 30 };
      ((run 1 s).2, (run 1 s).1.published.map fun p => (p.x, p.y, p.w, p.h))) = (1, [(0, 0, 256, 240)]) := by decide

/-! ## The step (sections 2.8, 2.13) -/

/-- N-1: NMI entry instead of an instruction. -/
def nmiState : State :=
  { jumpState 0x8123 { clear with n := true, c := true } with nmiPending := true }

theorem test_nmi_entry :
    (afterStep nmiState).map (fun t => (t.cpu.pc, t.cpu.sp, t.ram, t.report)) =
    some (0x9000, 0xFC, [(0x1FD, 0xA1), (0x1FE, 0x23), (0x1FF, 0x81)], .stepped 7 0) ∧
    (afterStep nmiState).map (fun t => (t.cpu.p.i, t.nmiPending)) = some (true, false) := by decide
/-- DE-4: an undefined opcode at 0x8000. -/
theorem test_illegal_opcode_step :
    (afterStep { withA 0 with params := image [(0x0000, 0x02)] }).map (fun t => (t.fault, t.cpu.pc, t.report)) =
    some (some (.illegalOpcode 0x02 0x8000), 0x8001, .faulted) := by decide
/-- The instruction withFetchWord places is what the next step runs: LDA #$80, then JMP $1234. -/
theorem test_step_runs_the_placed_word :
    (afterStep (State.reset.withFetchWord 16 0x80A9)).map (fun t => (t.cpu.a, t.cpu.p.n, t.report)) =
      some (0x80, true, .stepped 2 0) ∧
    (afterStep (State.reset.withFetchWord 24 0x12344C)).map (fun t => t.cpu.pc) = some 0x1234 := by decide
/-- E2: the reset vector. -/
theorem test_reset_vector :
    (let s := resetWith (image []) ResetDraws.zero;
      (s.cpu.pc, s.cpu.sp, s.cpu.p.i, s.cpu.p.d)) = (0x8000, 0xFF, true, false) := by decide


/-! ## Witnesses: states and operands that meet the hypotheses of each statement that has any -/

/-- LDA #$80 across the end of the address space: the opcode at 0xFFFF, its operand at 0x0000 (E1). -/
def wrapState : State :=
  { cpuState 0 0 0 0xFF 0xFFFF clear [(0x000, 0x80)] with params := { Params.initial with prg := [(0x3FFF, 0xA9)] } }

/-- A state with P_IO_POLICY = Stub and the two Fault policies for PRG-ROM and pattern writes. -/
def policyState : State :=
  { State.reset with params := { Params.initial with ioPolicy := .stub, romWrite := .fault, chrWrite := .fault } }

/-- A state that holds a fault record. -/
def faultedState : State := State.reset.setMacro (.faulted (.illegalOpcode 0x02 0x8000))

/-- The record a read of a PPU register leaves. -/
def readFault (r : PpuReg) (s : State) : State := s.setMacro (.faulted (.ppuRegisterUndefined r .read))

theorem witness_EncodeOfDecodedIsTheBytesRead :
    decode [0xA9, 0x80, 0x00] = .ok (.ldaImm 0x80) [0x00] ∧ decode [0x4C, 0xFF, 0xFF] = .ok (.jmpAbs 0xFFFF) [] ∧
    decode [0x00] = .ok .brk [] := by decide

theorem witness_StepRunsTheDecodedInstruction :
    (∀ k b, (encode (.ldaImm 0x80))[k]? = some b → peek wrapState (wrapState.cpu.pc + BitVec.ofNat 16 k) = some b) ∧
    wrapState.fault = none ∧ wrapState.nmiPending = false ∧
    fetchInstr wrapState = .ok (.ldaImm 0x80) (Spec.fetched wrapState (.ldaImm 0x80)) ∧
    ∃ u, exec (.ldaImm 0x80) (Spec.fetched wrapState (.ldaImm 0x80)) = .next u ∧ u.fault = none := by
  refine ⟨fun k b h => ?_, by decide, by decide, by decide, _, rfl, rfl⟩
  rcases k with _ | _ | k
  · cases h; rfl
  · cases h; rfl
  · cases h

/-- The other case of its conclusion: an instruction that leaves a fault record. -/
theorem witness_StepRunsTheDecodedInstruction_faulting :
    ∃ u, exec (.ldaAbs 0x2000) State.reset = .next u ∧ u.fault ≠ none := ⟨_, rfl, by decide⟩

theorem witness_UndefinedOpcodesFaultAtFetch :
    (let s := { withA 0 with params := image [(0x0000, 0x02)] };
      s.fault = none ∧ s.nmiPending = false ∧ (0x02 : Byte) ∈ Spec.undefinedOpcodes ∧ busRead s.cpu.pc s = .ok 0x02 s ∧
      peek s s.cpu.pc = some 0x02) ∧
    (0xFF : Byte) ∈ Spec.undefinedOpcodes ∧ (0xA9 : Byte) ∉ Spec.undefinedOpcodes := by decide

theorem witness_FaultedMachineTakesNoStep :
    faultedState.fault = some (.illegalOpcode 0x02 0x8000) ∧ ∃ t, step State.reset = .next t := ⟨by decide, _, rfl⟩

theorem witness_PendingNmiIsTakenBeforeTheFetch : nmiState.fault = none ∧ nmiState.nmiPending = true := by decide

theorem witness_NoStepRecordsAnUnreachableFault : ∃ t, step State.reset = .next t := ⟨_, rfl⟩

theorem witness_EveryStepKeepsTheInvariant : State.Inv State.reset ∧ ∃ t, step State.reset = .next t := by
  refine ⟨⟨⟨by decide, by decide, by decide, by decide, by decide⟩, ⟨by decide, by decide, by decide⟩, ⟨?_, rfl, rfl, by decide⟩,
    by decide⟩, _, rfl⟩
  intro it h
  cases h

theorem witness_ResetMeetsTheInvariant :
    (image []).wf ∧ ResetDraws.zero.ram.wf ∧ ResetDraws.zero.ram.below 2048 ∧ ResetDraws.zero.chr.wf ∧
    ResetDraws.zero.chr.below 8192 ∧ ResetDraws.zero.ciram.wf ∧ ResetDraws.zero.ciram.below 2048 ∧ ResetDraws.zero.pal.wf ∧
    ResetDraws.zero.pal.below 32 ∧ ResetDraws.zero.oam.wf ∧ ResetDraws.zero.oam.below 256 ∧ fbWf ResetDraws.zero.fb := by
  refine ⟨⟨by decide, by decide, by decide, ?_, by decide, by decide⟩, ?_⟩
  · intro m h; cases h
  · decide

theorem witness_ResetLoadsTheVectorAndClearsThePpu :
    prgByte (image []) 0xFFFC = 0x00 ∧ prgByte (image []) 0xFFFD = 0x80 ∧ (image []).chr = none ∧
    { image [] with chr := some [] }.chr = some [] := by decide

theorem witness_OperandValuesOfTheModes :
    modeHasValue (Operand.absx 0xFFF0).mode = true ∧
    operandAddr (.absx 0xFFF0) (withXY 0x20 0) = .ok 0x0010 (withXY 0x20 0) ∧ peek (withXY 0x20 0) 0x0010 = some 0x00 ∧
    modeHasValue (Operand.abs 0x8000).mode = true ∧ operandAddr (.abs 0x8000) (withA 0) = .ok 0x8000 (withA 0) ∧
    peek (withA 0) 0x8000 = some 0x00 ∧ peek (withA 0) 0x1FFF = some 0x00 := by decide

theorem witness_LoadsSetTheRegisterAndZN :
    (Instr.ldaImm 0x00).mnemonic = .LDA ∧ operandValue (Instr.ldaImm 0x00).operand (withA 0) = .ok 0x00 (withA 0) ∧
    (Instr.ldxZpy 0xFF).mnemonic = .LDX ∧ operandValue (Instr.ldxZpy 0xFF).operand (withXY 0 1) = .ok 0x00 (withXY 0 1) ∧
    (Instr.ldyAbs 0x1FFF).mnemonic = .LDY ∧ operandValue (Instr.ldyAbs 0x1FFF).operand (withA 0) = .ok 0x00 (withA 0) ∧
    operandValue (Instr.ldaAbs 0x2000).operand (withA 0) = .stopped (readFault .ctrl (withA 0)) := by decide

theorem witness_AFaultingReadEndsTheInstruction :
    (Instr.ldaAbs 0x3FFE).mnemonic ∈ Spec.valueReaders ∧
    operandValue (Instr.ldaAbs 0x3FFE).operand (withA 0) = .stopped (readFault .addr (withA 0)) ∧
    (Instr.bitAbs 0x7FFF).mnemonic ∈ Spec.valueReaders ∧
    operandValue (Instr.bitAbs 0x7FFF).operand (withA 0) = .stopped ((withA 0).setMacro (.faulted (.busUnmapped 0x7FFF .read))) := by
  decide

theorem witness_StoresWriteTheRegisterOnce :
    operandAddr (Instr.staAbs 0x1FFF).operand (withA 0x42) = .ok 0x1FFF (withA 0x42) ∧ (Instr.staAbs 0x1FFF).mnemonic = .STA ∧
    busWrite 0x1FFF 0x42 (withA 0x42) = .ok () ((withA 0x42).setRam [(0x7FF, 0x42)]) ∧
    operandAddr (Instr.stxZpy 0xFF).operand (withXY 7 1) = .ok 0x0000 (withXY 7 1) ∧ (Instr.stxZpy 0xFF).mnemonic = .STX ∧
    operandAddr (Instr.styAbs 0x2002).operand (withXY 0 7) = .ok 0x2002 (withXY 0 7) ∧ (Instr.styAbs 0x2002).mnemonic = .STY ∧
    busWrite 0x2002 0x07 (withXY 0 7) = raise (.ppuRegisterUndefined .status .write) (withXY 0 7) := by decide

theorem witness_AdcAddsWithCarry :
    (Instr.adcImm 0x80).mnemonic = .ADC ∧ operandValue (Instr.adcImm 0x80).operand (withA 0x80) = .ok 0x80 (withA 0x80) ∧
    operandValue (Instr.adcAbs 0x2001).operand (withA 0) = .stopped (readFault .mask (withA 0)) := by decide

theorem witness_SbcSubtractsWithBorrow :
    (Instr.sbcImm 0x01).mnemonic = .SBC ∧ operandValue (Instr.sbcImm 0x01).operand (withA 0) = .ok 0x01 (withA 0) ∧
    operandValue (Instr.sbcAbs 0x2003).operand (withA 0) = .stopped (readFault .oamAddr (withA 0)) := by decide

theorem witness_LogicCombinesWithA :
    (Instr.andImm 0x0F).mnemonic = .AND ∧ (Instr.oraImm 0x0F).mnemonic = .ORA ∧ (Instr.eorImm 0x0F).mnemonic = .EOR ∧
    operandValue (.imm 0x0F) (withA 0xFF) = .ok 0x0F (withA 0xFF) ∧
    operandValue (Instr.eorAbs 0x2005).operand (withA 0) = .stopped (readFault .scroll (withA 0)) := by decide

theorem witness_ComparesAndBitSetOnlyFlags :
    (Instr.cmpImm 0xFF).mnemonic = .CMP ∧ (Instr.cpxImm 0xFF).mnemonic = .CPX ∧ (Instr.cpyImm 0xFF).mnemonic = .CPY ∧
    (Instr.bitZp 0x10).mnemonic = .BIT ∧ operandValue (.imm 0xFF) (withA 0x00) = .ok 0xFF (withA 0x00) ∧
    operandValue (.zp 0x10) (withA 0 clear [(0x010, 0xC0)]) = .ok 0xC0 (withA 0 clear [(0x010, 0xC0)]) ∧
    operandValue (Instr.cmpAbs 0x2006).operand (withA 0) = .stopped (readFault .addr (withA 0)) := by decide

theorem witness_IncDecReadOnceAndWriteOnce :
    (Instr.incAbs 0x1FFF).mnemonic = .INC ∧ operandAddr (Instr.incAbs 0x1FFF).operand (withA 0) = .ok 0x1FFF (withA 0) ∧
    (Instr.decAbs 0x8000).mnemonic = .DEC ∧ operandAddr (Instr.decAbs 0x8000).operand policyState = .ok 0x8000 policyState ∧
    busRead 0x1FFF (withA 0) = .ok 0x00 (withA 0) ∧ busWrite 0x1FFF 0x01 (withA 0) = .ok () ((withA 0).setRam [(0x7FF, 0x01)]) ∧
    busRead 0x2000 (withA 0) = .stopped (readFault .ctrl (withA 0)) ∧
    busRead 0x8000 policyState = .ok 0x00 policyState ∧ busWrite 0x8000 0xFF policyState = raise (.romWrite 0x8000 0xFF) policyState ∧
    (∀ m : Byte, m + 1 = BitVec.ofNat 8 (m.toNat + 1)) ∧ ∀ m : Byte, m - 1 = BitVec.ofNat 8 (m.toNat + 255) := by
  refine ⟨by decide, by decide, by decide, by decide, by decide, by decide, by decide, by decide, by decide, fun m => ?_, fun m => ?_⟩ <;>
    apply BitVec.eq_of_toNat_eq <;> simp
  omega

theorem witness_IndexRegistersStepMod256 :
    ∃ x1 y1 x0 y0 : Byte, x1 = BitVec.ofNat 8 ((withXY 0xFF 0).cpu.x.toNat + 1) ∧ y1 = BitVec.ofNat 8 ((withXY 0xFF 0).cpu.y.toNat + 1) ∧
      x0 = BitVec.ofNat 8 ((withXY 0xFF 0).cpu.x.toNat + 255) ∧ y0 = BitVec.ofNat 8 ((withXY 0xFF 0).cpu.y.toNat + 255) :=
  ⟨_, _, _, _, rfl, rfl, rfl, rfl⟩

theorem witness_ShiftsReadOnceAndWriteOnce :
    Instr.aslAcc.mnemonic ∈ Spec.shifts ∧ Instr.aslAcc.operand = .acc ∧
    (Instr.rorAbs 0x1FFF).mnemonic ∈ Spec.shifts ∧ operandAddr (Instr.rorAbs 0x1FFF).operand (withA 0) = .ok 0x1FFF (withA 0) ∧
    (withA 0).ram.read (0x1FFF % 2048) = 0x00 ∧ busRead 0x1FFF (withA 0) = .ok 0x00 (withA 0) ∧
    busWrite 0x1FFF 0x00 (withA 0) = .ok () (withA 0) ∧
    (Instr.lsrAbs 0x4000).mnemonic ∈ Spec.shifts ∧ operandAddr (Instr.lsrAbs 0x4000).operand (withA 0) = .ok 0x4000 (withA 0) ∧
    busRead 0x4000 (withA 0) = raise (.busUnmapped 0x4000 .read) (withA 0) ∧
    (Instr.rolAbs 0x8000).mnemonic ∈ Spec.shifts ∧ operandAddr (Instr.rolAbs 0x8000).operand policyState = .ok 0x8000 policyState ∧
    busRead 0x8000 policyState = .ok 0x00 policyState ∧ busWrite 0x8000 0x00 policyState = raise (.romWrite 0x8000 0x00) policyState := by
  decide

theorem witness_JmpGoesToItsTarget :
    (0x0200 : Addr) = ((0x02FF : Addr) &&& 0xFF00) ||| (((0x02FF : Addr) + 1) &&& 0x00FF) ∧
    busRead 0x02FF (withA 0) = .ok 0x00 (withA 0) ∧ busRead 0x0200 (withA 0) = .ok 0x00 (withA 0) ∧
    peek (withA 0) 0x02FF = some 0x00 ∧ peek (withA 0) 0x0200 = some 0x00 ∧
    busRead 0x2000 (withA 0) = .stopped (readFault .ctrl (withA 0)) ∧
    (0x2005 : Addr) = ((0x2004 : Addr) &&& 0xFF00) ||| (((0x2004 : Addr) + 1) &&& 0x00FF) ∧
    busRead 0x2004 (withA 0) = .ok 0x00 (withA 0) ∧ busRead 0x2005 (withA 0) = .stopped (readFault .scroll (withA 0)) := by decide

theorem witness_JsrAndRtsUseTheStack :
    ∃ (ret : Addr) (lo hi : Byte), ret = BitVec.ofNat 16 ((jumpState 0x0000 clear 0xFF).cpu.pc.toNat + 65535) ∧
      lo = (jumpState 0x0000 clear 0xFF).ram.read (0x100 + ((jumpState 0x0000 clear 0xFF).cpu.sp + 1).toNat) ∧
      hi = (jumpState 0x0000 clear 0xFF).ram.read (0x100 + ((jumpState 0x0000 clear 0xFF).cpu.sp + 2).toNat) :=
  ⟨_, _, _, rfl, rfl, rfl⟩

theorem witness_RtsUndoesJsr : ∃ t, exec (.jsr 0x9000) (jumpState 0x8003 clear 0x00) = .next t := ⟨_, rfl⟩

theorem witness_BrkEntersAndRtiReturns :
    ∃ (ret : Addr) (v lo hi : Byte), ret = (jumpState 0x8001 clear 0x01).cpu.pc + 1 ∧
      v = (jumpState 0x8001 clear 0x01).ram.read (0x100 + ((jumpState 0x8001 clear 0x01).cpu.sp + 1).toNat) ∧
      lo = (jumpState 0x8001 clear 0x01).ram.read (0x100 + ((jumpState 0x8001 clear 0x01).cpu.sp + 2).toNat) ∧
      hi = (jumpState 0x8001 clear 0x01).ram.read (0x100 + ((jumpState 0x8001 clear 0x01).cpu.sp + 3).toNat) :=
  ⟨_, _, _, _, rfl, rfl, rfl, rfl⟩

theorem witness_RtiUndoesInterruptEntry :
    (∃ t, exec .brk (jumpState 0x8001 clear 0x01) = .next t) ∧ ∃ t, nmiEntry (jumpState 0x8001 clear 0x01) = .ok () t :=
  ⟨⟨_, rfl⟩, ⟨_, rfl⟩⟩

theorem witness_StackInstructionsMoveOneByte :
    ∃ v, v = (withA 0x42).ram.read (0x100 + ((withA 0x42).cpu.sp + 1).toNat) := ⟨_, rfl⟩

/-- Two bytes that differ in bit 5 alone. -/
theorem witness_StatusByteLayout : ∀ k < 8, k ≠ 5 → (0xFF : Byte).getLsbD k = (0xDF : Byte).getLsbD k := by decide

theorem witness_OnlyTheListedInstructionsWriteARegister :
    (∃ t, exec .nop (withA 0) = .next t) ∧
    Instr.nop.mnemonic ∉ [Mnemonic.LDA, .ADC, .SBC, .AND, .ORA, .EOR, .TXA, .TYA, .PLA] ∧
    ¬(Instr.nop.mnemonic ∈ Spec.shifts ∧ Instr.nop.operand = .acc) ∧
    (∃ t, exec (.aslAbs 0x1FFF) (withA 0) = .next t) ∧ ¬((Instr.aslAbs 0x1FFF).mnemonic ∈ Spec.shifts ∧ (Instr.aslAbs 0x1FFF).operand = .acc) ∧
    Instr.nop.mnemonic ∉ [Mnemonic.LDX, .TAX, .TSX, .INX, .DEX, .LDY, .TAY, .INY, .DEY, .TXS, .PHA, .PHP, .PLA, .PLP, .JSR, .RTS,
      .BRK, .RTI, .BCC, .BCS, .BEQ, .BNE, .BMI, .BPL, .BVC, .BVS, .JMP] :=
  ⟨⟨_, rfl⟩, by decide, by decide, ⟨_, rfl⟩, by decide, by decide⟩

theorem witness_OnlyTheListedInstructionsWriteAFlag :
    (∃ t, exec .nop (withA 0) = .next t) ∧
    Instr.nop.mnemonic ∉ [Mnemonic.ADC, .SBC, .CMP, .CPX, .CPY, .ASL, .LSR, .ROL, .ROR, .CLC, .SEC, .PLP, .RTI, .LDA, .LDX, .LDY,
      .TAX, .TAY, .TXA, .TYA, .TSX, .AND, .ORA, .EOR, .BIT, .INC, .DEC, .INX, .INY, .DEX, .DEY, .PLA, .SEI, .CLI, .BRK, .SED,
      .CLD, .CLV] := ⟨⟨_, rfl⟩, by decide⟩

theorem witness_OnlyTheStoredBytesOfRamChange :
    (∃ t, exec .nop (withA 0) = .next t) ∧ Instr.nop.mnemonic ∉ Spec.operandWriters ∧ Instr.nop.mnemonic ∉ Spec.pushers ∧
    (∃ t, exec .aslAcc (withA 0) = .next t) ∧ Instr.aslAcc.mnemonic ∈ Spec.operandWriters ∧ Instr.aslAcc.operand = .acc ∧
    (∃ t, exec (.staAbs 0x1FFF) (withA 1) = .next t) ∧ (Instr.staAbs 0x1FFF).mnemonic ∈ Spec.operandWriters ∧
    operandAddr (Instr.staAbs 0x1FFF).operand (withA 1) = .ok 0x1FFF (withA 1) ∧ 0x7FE ≠ 0x1FFF % 2048 ∧
    (∃ t, exec .pha (withA 1) = .next t) ∧ (∃ t, exec .php (withA 1) = .next t) ∧ (∃ t, exec (.jsr 0x9000) (withA 1) = .next t) ∧
    (∃ t, exec .brk (withA 1) = .next t) ∧ 0x1FC ≠ 0x100 + (withA 1).cpu.sp.toNat ∧ 0x1FC ≠ 0x100 + ((withA 1).cpu.sp - 1).toNat ∧
    0x1FC ≠ 0x100 + ((withA 1).cpu.sp - 2).toNat :=
  ⟨⟨_, rfl⟩, by decide, by decide, ⟨_, rfl⟩, by decide, by decide, ⟨_, rfl⟩, by decide, by decide, by decide, ⟨_, rfl⟩, ⟨_, rfl⟩,
    ⟨_, rfl⟩, ⟨_, rfl⟩, by decide, by decide, by decide⟩

theorem witness_InstructionsReachThePpuOnlyThroughTheBus :
    (∃ t, exec (.ldaAbs 0x1FFF) (withA 0) = .next t) ∧ (Instr.ldaAbs 0x1FFF).mnemonic ∉ Spec.operandWriters ∧
    (Instr.ldaAbs 0x1FFF).operand.mode ≠ .ind ∧ operandAddr (Instr.ldaAbs 0x1FFF).operand (withA 0) = .ok 0x1FFF (withA 0) ∧
    operandAddr (Instr.staAbs 0x4000).operand policyState = .ok 0x4000 policyState ∧ (0x4000 : Addr) ≠ 0x4014 ∧
    operandAddr (Instr.staAbs 0x8000).operand policyState = .ok 0x8000 policyState ∧ Instr.nop.operand.mode ∈ [Mode.imp, .acc, .imm, .rel] ∧
    (Instr.jsr 0x2002).mnemonic = .JSR := by
  exact ⟨⟨_, rfl⟩, by decide, by decide, by decide, by decide, by decide, by decide, by decide, by decide⟩

/-- The boundary addresses of the four regions, the window's last register, and both policies. -/
theorem witness_BusReadsAreRoutedByAddress :
    (0x1FFF : Addr).toNat < 0x2000 ∧ 0x2000 ≤ (0x2000 : Addr).toNat ∧ (0x3FFF : Addr).toNat < 0x4000 ∧
    [(0x2000 : Addr).toNat % 8, (0x3FF9 : Addr).toNat % 8, (0x2003 : Addr).toNat % 8, (0x3FFD : Addr).toNat % 8,
      (0x3FFE : Addr).toNat % 8] = [0, 1, 3, 5, 6] ∧
    0x4000 ≤ (0x4000 : Addr).toNat ∧ (0x7FFF : Addr).toNat < 0x8000 ∧ State.reset.params.ioPolicy = .fault ∧
    policyState.params.ioPolicy = .stub ∧ 0x8000 ≤ (0x8000 : Addr).toNat := by decide

theorem witness_BusWritesAreRoutedByAddress :
    (0x1FFF : Addr).toNat < 0x2000 ∧ 0x2000 ≤ (0x2002 : Addr).toNat ∧ (0x3FFA : Addr).toNat < 0x4000 ∧ (0x3FFA : Addr).toNat % 8 = 2 ∧
    0x4000 ≤ (0x4000 : Addr).toNat ∧ (0x7FFF : Addr).toNat < 0x8000 ∧ (0x4013 : Addr) ≠ 0x4014 ∧ State.reset.params.ioPolicy = .fault ∧
    policyState.params.ioPolicy = .stub ∧ 0x8000 ≤ (0x8000 : Addr).toNat ∧ State.reset.params.romWrite = .ignore ∧
    policyState.params.romWrite = .fault := by decide

theorem witness_RamStoresAreSeenAtEveryAlias :
    (0x1FFF : Addr).toNat < 0x2000 ∧ (0x07FF : Addr).toNat < 0x2000 ∧
    busWrite 0x1FFF 0x77 State.reset = .ok () (State.reset.setRam [(0x7FF, 0x77)]) ∧
    (0x1FFF : Addr).toNat % 2048 = (0x07FF : Addr).toNat % 2048 ∧ (0x1FFF : Addr).toNat % 2048 ≠ (0x0000 : Addr).toNat % 2048 := by
  decide

theorem witness_OamDmaCopiesThePage :
    (0x1F : Byte).toNat < 0x20 ∧ 0x80 ≤ (0x80 : Byte).toNat ∧ (0x20 ≤ (0x20 : Byte).toNat ∧ (0x3F : Byte).toNat < 0x40) ∧
    (0x40 ≤ (0x40 : Byte).toNat ∧ (0x7F : Byte).toNat < 0x80) ∧ State.reset.params.ioPolicy = .fault ∧
    policyState.params.ioPolicy = .stub := by decide

theorem witness_NametablesAreMirroredAndPatternsFollowThePolicy :
    (0x2000 ≤ (0x2000 : Addr).toNat % 0x4000 ∧ (0x3EFF : Addr).toNat % 0x4000 < 0x3F00) ∧
    (0x1FFF : Addr).toNat % 0x4000 < 0x2000 ∧ (0x4000 : Addr).toNat % 0x4000 < 0x2000 ∧ State.reset.params.chrWrite = .ignore ∧
    policyState.params.chrWrite = .fault ∧ { State.reset.params with chrWrite := .store }.chrWrite = .store := by decide

theorem witness_PaletteAccessesAreAdjusted :
    (∀ p ∈ [0x3F04, 0x3F08, 0x3F0C, 0x3F10, 0x3F1C, 0x3F1F, 0x7F00, 0x3FFF], 0x3F00 ≤ (BitVec.ofNat 16 p).toNat % 0x4000) ∧
    [(0x3F0C : Addr).toNat % 32, (0x3FFC : Addr).toNat % 32, (0x3FFF : Addr).toNat % 32, (0x7F00 : Addr).toNat % 32] = [0x0C, 0x1C, 0x1F, 0x00] ∧
    State.reset.params.palChain = false ∧ { State.reset.params with palChain := true }.palChain = true := by decide

theorem witness_NoStepWritesTheImageOrTheMirrorSlots : ∃ t, step State.reset = .next t := ⟨_, rfl⟩

theorem witness_StatusReadClearsVblOnly :
    0x2000 ≤ (0x2002 : Addr).toNat ∧ (0x3FFA : Addr).toNat < 0x4000 ∧ (0x2002 : Addr).toNat % 8 = 2 ∧ (0x3FFA : Addr).toNat % 8 = 2 := by
  decide

theorem witness_PpuPortsWriteTheirRegisters :
    State.reset.ppu.w = .first ∧ (writeScroll 0x08 State.reset).ppu.w = .second := by decide

theorem witness_DataPortIsBufferedBelowThePalette :
    (∃ t, ppuMemWrite State.reset.ppu.vramAddr 0x01 State.reset = .ok () t) ∧
    (∃ t, ppuMemWrite policyState.ppu.vramAddr 0x01 policyState = .stopped t) ∧
    (0x3EFF : Addr).toNat % 0x4000 < 0x3F00 ∧ 0x3F00 ≤ (0x7F00 : Addr).toNat % 0x4000 ∧ 0x3F00 ≤ (0xFFFF : Addr).toNat % 0x4000 :=
  ⟨⟨_, rfl⟩, ⟨_, rfl⟩, by decide, by decide, by decide⟩

theorem witness_FrameCadence :
    State.reset.scan = { cycAcc := 0, line := 0, rowCursor := 0 } ∧ (82180 < 82181 ∧ 82181 ≤ 82181 ∧ 89682 < 89683) := by decide

theorem witness_LinePhasesSetAndClearTheFlags :
    (let s := sprite0State 0x20 4;
      33 = (s.vmem.oam.read 0).toNat + s.params.spriteYOffset.val ∧ 8 = (if s.ppu.ctrl.getLsbD 5 then 16 else 8)) ∧
    (∀ l ∈ [0, 1, 8, 240, 242, 262], l < 263 ∧ l ≠ 241) ∧
    (let s := State.reset.setScan { cycAcc := 0, line := 241, rowCursor := 30 }; s.scan.line = 241) ∧
    (let s := State.reset.setScan { cycAcc := 0, line := 263, rowCursor := 30 }; 263 ≤ s.scan.line) := by decide

theorem witness_TileRowQueuesTheBackground :
    (let s := (sprite0State 0x20 29).setScan { cycAcc := 0, line := 240, rowCursor := 29 };
      s.scan.line ≤ 240 ∧ s.scan.line % 8 = 0 ∧ s.ppu.mask.getLsbD 3 = true ∧
      33 = (s.vmem.oam.read 0).toNat + s.params.spriteYOffset.val ∧ 8 = (if s.ppu.ctrl.getLsbD 5 then 16 else 8)) ∧
    State.reset.ppu.mask.getLsbD 3 = false := by decide

theorem witness_CompositeGivesThePriorityColour :
    255 < 256 ∧ 239 < 240 ∧ 0 < State.reset.params.zoom ∧ 256 * State.reset.params.zoom ≤ 256 ∧
    240 * State.reset.params.zoom ≤ 240 := by decide

theorem witness_CompositeClearsTheLayersAndPublishes :
    State.reset.rend.bg = [] ∧ State.reset.rend.behind = [] ∧ State.reset.rend.front = [] := by decide

theorem witness_BranchAndDmaCosts :
    State.reset.params.cost = .reference ∧ (Instr.staAbs 0x4014).mnemonic ∈ Spec.operandWriters ∧
    operandAddr (Instr.staAbs 0x4014).operand (withA 0) = .ok 0x4014 (withA 0) ∧
    (Instr.ldaAbs 0x4014).mnemonic ∉ Spec.operandWriters ∧ Instr.rolAcc.operand = .acc := by decide

theorem witness_EveryFrameIsPublished :
    (∃ t, step State.reset = .next t ∧ t.report = .stepped 7 0) ∧
    ∃ t, step { withA 0 with params := image [(0x0000, 0x02)] } = .next t ∧ t.report = .faulted :=
  ⟨⟨_, rfl, by decide⟩, _, rfl, by decide⟩

theorem witness_AStepCompletesAtMostOneFrame :
    State.Inv State.reset ∧ State.reset.params.cost = .reference ∧ State.reset.params.ppuRatio ≤ 172 ∧
    ∃ t, step State.reset = .next t ∧ t.report = .stepped 7 0 :=
  ⟨witness_EveryStepKeepsTheInvariant.1, by decide, by decide, _, rfl, by decide⟩

/-- JMP $0200 at 0x0200, with and without an NMI pending: a run ends there at once. -/
def selfJumpState (nmi : Bool) : State :=
  { cpuState 0 0 0 0xFF 0x0200 clear [(0x200, 0x4C), (0x202, 0x02)] with nmiPending := nmi }

theorem witness_ARunEndsAtItsFirstSelfJump (nmi : Bool) : EndOfRun 0 (selfJumpState nmi) (selfJumpState nmi) := by
  refine ⟨rfl, ⟨?_, ?_, ?_, ?_⟩, fun j _ h => absurd h (Nat.not_lt_zero j)⟩ <;> cases nmi <;> rfl

end Sys2Proof.Tests
end

section
/-! PROOFS. The invariant: every bus access keeps it, so every instruction does; NMI entry and the run of the PPU keep it too. -/

namespace Sys2Proof.Machine

/-! ## What keeps the invariant -/

/-- The invariant sees the engine's parts, the memories and whether an interrupt is being serviced, and nothing else. -/
theorem State.Inv.of_sameEngine {s t : State} (hs : s.Inv) (he : SameEngine s t) (hm : MemoryInv t)
    (hc : t.cpu.macroState ≠ .servicingInterrupt) : t.Inv :=
  ⟨hm, he.scan ▸ hs.scan, he.rend ▸ hs.render, hc⟩

theorem StoppedFrom.not_servicing {s t : State} (h : StoppedFrom s t) : t.cpu.macroState ≠ .servicingInterrupt := by
  obtain ⟨f, hf, -⟩ := h
  simp [hf]

theorem State.Inv.setMacro_faulted {s : State} (hs : s.Inv) (f : Fault) : (s.setMacro (.faulted f)).Inv :=
  hs.of_sameEngine ⟨rfl, rfl, rfl, rfl, rfl, rfl⟩ (hs.memory.of_eq rfl rfl) (by simp)

/-- Every bus access and every register write keeps the invariant, so a whole instruction does (`exec_within`). -/
theorem inv_busClosed : BusClosed fun s t => s.Inv → t.Inv where
  refl _ := id
  trans h k := k ∘ h
  cpu h hc hs := by
    rw [h]
    exact ⟨hs.memory.of_eq rfl rfl, hs.scan, hs.render, fun e => hs.macroState (hc ▸ e)⟩
  read h hs := by
    obtain ⟨hcpu, hram, hvmem, he⟩ := busRead_ok h
    exact hs.of_sameEngine he (hs.memory.of_eq hram hvmem) (hcpu ▸ hs.macroState)
  readStop h hs := by
    obtain ⟨hf, hram, hvmem, he⟩ := busRead_stoppedFrom h
    exact hs.of_sameEngine he (hs.memory.of_eq hram hvmem) hf.not_servicing
  write h hs := by
    obtain ⟨hcpu, he, -⟩ := busWrite_ok h
    exact hs.of_sameEngine he (busWrite_memoryInv hs.memory h) (hcpu ▸ hs.macroState)
  writeStop h hs := by
    obtain ⟨hf, hram, hvmem, he⟩ := busWrite_stopped h
    exact hs.of_sameEngine he (hs.memory.of_eq hram hvmem) hf.not_servicing

/-! ## NMI entry -/

/-- A byte stored in the stack page lies inside RAM. -/
theorem MemoryInv.setRam_stack {s : State} (h : MemoryInv s) (sp v : Byte) :
    MemoryInv (s.setRam (s.ram.write (0x100 + sp.toNat) v)) := by
  have hsp : 0x100 + sp.toNat < Config.ramSize := by
    have := sp.isLt
    rw [Config.ramSize]
    omega
  obtain ⟨hram, hchr, hciram, hpal, hoam⟩ := h
  exact ⟨⟨Memory.write_wf _ _ hram.1, Memory.write_below _ hram.2 hsp⟩, hchr, hciram, hpal, hoam⟩

/-- NMI entry keeps the invariant: three stack bytes are stored, and servicing-interrupt is left again (10_state.md R38). -/
theorem nmiEntry_inv {s t : State} (hs : s.Inv) (h : nmiEntry s = .ok () t) : t.Inv := by
  rw [nmiEntry_eq] at h
  cases h
  exact hs.of_sameEngine ⟨rfl, rfl, rfl, rfl, rfl, rfl⟩
    ((((hs.memory.setRam_stack s.cpu.sp _).setRam_stack (s.cpu.sp - 1) _).setRam_stack (s.cpu.sp - 2) _).of_eq rfl rfl)
    (by simp)

/-! ## The run of the PPU and the end of a step -/

theorem run_inv {s : State} (n : Nat) (hs : s.Inv) : (run n s).1.Inv := by
  have same := run_sameCpuSide s n
  exact ⟨hs.memory.of_eq same.ram same.vmem, run_scanInv s n hs.scan.line hs.scan.rowCursor, run_renderInv s n hs.render,
    same.cpu ▸ hs.macroState⟩

theorem State.Inv.setNmi {s : State} (hs : s.Inv) (b : Bool) : (s.setNmi b).Inv :=
  ⟨hs.memory.of_eq rfl rfl, hs.scan, hs.render, hs.macroState⟩

theorem State.Inv.setPublished {s : State} (hs : s.Inv) (ps : List Publication) : (s.setPublished ps).Inv :=
  ⟨hs.memory.of_eq rfl rfl, hs.scan, hs.render, hs.macroState⟩

theorem State.Inv.setReport {s : State} (hs : s.Inv) (r : Report) : (s.setReport r).Inv :=
  ⟨hs.memory.of_eq rfl rfl, hs.scan, hs.render, hs.macroState⟩

theorem endStep_inv {s : State} (c : Nat) (hs : s.Inv) : (endStep c s).Inv := by
  rw [endStep_eq]
  split_ifs
  · exact (run_inv _ (hs.setPublished [])).setReport _
  · exact (hs.setPublished []).setReport _

/-- Settles O10: each of the three kinds of step leaves a state of the invariant for the end of the step, which keeps it. -/
theorem everyStepKeepsTheInvariant : Obligations.EveryStepKeepsTheInvariant := by
  intro s t hs h
  obtain ⟨hfetch, hfault⟩ := fetchInstr_within inv_busClosed (fun _ _ _ hs => hs.setMacro_faulted _) s
  obtain ⟨-, ⟨-, u, hu, rfl⟩ | ⟨-, u, hu, rfl⟩ | ⟨-, i, u, w, hu, hw, rfl⟩⟩ := step_cases h
  case inl => exact endStep_inv 7 (nmiEntry_inv (hs.setNmi false) hu)
  case inr.inl => exact endStep_inv 0 (hfault u hu hs)
  case inr.inr => exact endStep_inv _ (exec_within inv_busClosed hw (hfetch i u hu hs))

/-! ## Reset -/

/-- Reset gives a state of the invariant, for draws that are memories of their sizes. -/
theorem resetWith_inv {p : Params} {d : ResetDraws} (hchr : ∀ m ∈ p.chr, Memory.wf m ∧ Memory.below m 8192)
    (ram : d.ram.wf ∧ d.ram.below 2048) (chr : d.chr.wf ∧ d.chr.below 8192) (ciram : d.ciram.wf ∧ d.ciram.below 2048)
    (pal : d.pal.wf ∧ d.pal.below 32) (oam : d.oam.wf ∧ d.oam.below 256) (fb : fbWf d.fb) : (resetWith p d).Inv := by
  have pattern : (p.chr.getD d.chr).wf ∧ (p.chr.getD d.chr).below 8192 := by
    cases h : p.chr with
    | none => exact chr
    | some m => exact hchr m h
  have scan : ScanInv { cycAcc := 0, line := 0, rowCursor := 0 } := ⟨by decide, by decide, by decide⟩
  exact ⟨⟨ram, pattern, ciram, pal, oam⟩, scan, ⟨List.forall_mem_nil _, rfl, rfl, fb⟩, nofun⟩

/-- Settles O11: `State.reset` is the reset of the initial parameters with empty draws. -/
theorem resetMeetsTheInvariant : Obligations.ResetMeetsTheInvariant := by
  refine ⟨?_, fun p d hp ram ram' chr chr' ciram ciram' pal pal' oam oam' fb => ?_⟩
  · rw [reset_eq_resetWith]
    exact resetWith_inv nofun (by decide) (by decide) (by decide) (by decide) (by decide) (by decide)
  · obtain ⟨-, -, -, hchr, -⟩ := hp
    exact resetWith_inv hchr ⟨ram, ram'⟩ ⟨chr, chr'⟩ ⟨ciram, ciram'⟩ ⟨pal, pal'⟩ ⟨oam, oam'⟩ fb

/-! ## The parameters and the sprite mirror slots -/

/-- The parameters are the same, and so is every palette slot that no write can name (20_memory.md R108). -/
structure SameImage (s t : State) : Prop where
  params : t.params = s.params
  mirrors : ∀ k ∈ [0x10, 0x14, 0x18, 0x1C], t.vmem.pal.read k = s.vmem.pal.read k

theorem SameImage.of_vmem {s t : State} (hp : t.params = s.params) (hv : t.vmem = s.vmem) : SameImage s t :=
  ⟨hp, fun _ _ => by rw [hv]⟩

theorem SameImage.trans {s t u : State} (h : SameImage s t) (k : SameImage t u) : SameImage s u :=
  ⟨k.params.trans h.params, fun j hj => (k.mirrors j hj).trans (h.mirrors j hj)⟩

/-- A palette write leaves the mirror slots: its index is never one of them (20_memory.md R107). -/
theorem pal_write_mirrors (m : Memory) (a : Nat) (v : Byte) :
    ∀ k ∈ [0x10, 0x14, 0x18, 0x1C], (m.write (palWriteIndex a) v).read k = m.read k := by
  intro k hk
  refine Memory.read_write_ne m v fun e => ?_
  obtain ⟨-, h1, h2, h3, h4⟩ := palWriteIndex_spec a
  simp only [e, List.mem_cons, h1, h2, h3, h4, List.not_mem_nil, or_false] at hk

theorem ppuMemWrite_sameImage {a : Addr} {v : Byte} {s t : State} (h : ppuMemWrite a v s = .ok () t) : SameImage s t := by
  rcases ppuMemWrite_ok h with ⟨-, -, rfl⟩ | ⟨-, -, rfl⟩ | ⟨-, -, rfl⟩ | ⟨-, rfl⟩
  case inl | inr.inl | inr.inr.inl => exact ⟨rfl, fun _ _ => rfl⟩
  case inr.inr.inr => exact ⟨rfl, pal_write_mirrors _ _ _⟩

theorem ppuRegWrite_sameImage {r : PpuReg} {v : Byte} {s t : State} (h : ppuRegWrite r v s = .ok () t) : SameImage s t := by
  obtain ⟨-, -, he⟩ := ppuRegWrite_ok h
  refine ⟨he.params, ?_⟩
  cases r <;> simp only [ppuRegWrite, raise_ne_ok, Res.ok.injEq, true_and] at h
  case ctrl | mask | oamAddr | oamData => subst h; exact fun _ _ => rfl
  case scroll => subst h; unfold writeScroll; split <;> exact fun _ _ => rfl
  case addr => subst h; unfold writeAddr; split <;> exact fun _ _ => rfl
  case data =>
    obtain ⟨_, u, hw, hu⟩ := Res.bind_eq_ok.mp h
    cases hu
    exact (ppuMemWrite_sameImage hw).mirrors

theorem oamDma_sameImage {v : Byte} {s t : State} (h : oamDma v s = .ok () t) : SameImage s t := by
  obtain ⟨-, -, he⟩ := oamDma_ok h
  refine ⟨he.params, ?_⟩
  obtain ⟨vs, u, hr, hu⟩ := Res.bind_eq_ok.mp h
  obtain ⟨hlen, -, -, hvmem, -⟩ := readBlock_ok hr
  rw [oamTransfer_256 u hlen] at hu
  cases hu
  exact fun _ _ => by simp [hvmem]

theorem busWrite_sameImage {a : Addr} {v : Byte} {s t : State} (h : busWrite a v s = .ok () t) : SameImage s t := by
  obtain ⟨-, he, -⟩ := busWrite_ok h
  by_cases hw : 0x2000 ≤ a.toNat ∧ a.toNat < 0x4000
  · rw [busWrite_window v s hw.1 hw.2] at h
    exact ppuRegWrite_sameImage h
  by_cases hd : a = Config.dmaPort
  · subst hd
    exact oamDma_sameImage h
  · obtain ⟨-, hvmem, -⟩ := busWrite_outside (by omega) hd h
    exact .of_vmem he.params hvmem

theorem sameImage_busClosed : BusClosed SameImage where
  refl _ := .of_vmem rfl rfl
  trans := SameImage.trans
  cpu h _ := by rw [h]; exact .of_vmem rfl rfl
  read h := by
    obtain ⟨-, -, hvmem, he⟩ := busRead_ok h
    exact .of_vmem he.params hvmem
  readStop h := by
    obtain ⟨-, -, hvmem, he⟩ := busRead_stoppedFrom h
    exact .of_vmem he.params hvmem
  write h := busWrite_sameImage h
  writeStop h := by
    obtain ⟨-, -, hvmem, he⟩ := busWrite_stopped h
    exact .of_vmem he.params hvmem

theorem nmiEntry_sameImage {s t : State} (h : nmiEntry s = .ok () t) : SameImage s t := by
  rw [nmiEntry_eq] at h
  cases h
  exact .of_vmem rfl rfl

theorem endStep_sameImage (c : Nat) (s : State) : SameImage s (endStep c s) := by
  rw [endStep_eq]
  split_ifs
  · have same := run_sameCpuSide (s.setPublished []) (c * s.params.ppuRatio)
    exact .of_vmem same.params same.vmem
  · exact .of_vmem rfl rfl

/-- Settles O45: each of the three kinds of step reaches PPU memory through the bus alone, and its end not at all. -/
theorem noStepWritesTheImageOrTheMirrorSlots : Obligations.NoStepWritesTheImageOrTheMirrorSlots := by
  intro s t h
  obtain ⟨hfetch, hfault⟩ := fetchInstr_within sameImage_busClosed (fun _ _ _ => .of_vmem rfl rfl) s
  have key : SameImage s t := by
    obtain ⟨-, ⟨-, u, hu, rfl⟩ | ⟨-, u, hu, rfl⟩ | ⟨-, i, u, w, hu, hw, rfl⟩⟩ := step_cases h
    case inl =>
      have hn : SameImage s (s.setNmi false) := .of_vmem rfl rfl
      exact (hn.trans (nmiEntry_sameImage hu)).trans (endStep_sameImage 7 u)
    case inr.inl => exact (hfault u hu).trans (endStep_sameImage 0 u)
    case inr.inr => exact ((hfetch i u hu).trans (exec_within sameImage_busClosed hw)).trans (endStep_sameImage _ w)
  exact ⟨key.params, key.mirrors⟩

end Sys2Proof.Machine
end

section
/-! PROOFS. JSR and RTS; and the frame of an instruction: which parts of the CPU and of RAM each mnemonic may write, as 10_state.md
R30 to R36 list them, and that it writes no other. -/

namespace Sys2Proof.Machine

/-! ## JSR and RTS -/

/-- JSR never faults: it pushes and goes to its operand's address. -/
theorem jumpSubroutine_abs (a : Addr) (s : State) :
    jumpSubroutine (.abs a) s = .ok () (((s.setRam ((s.ram.write (0x100 + s.cpu.sp.toNat) (highByte (s.cpu.pc - 1))).write
      (0x100 + (s.cpu.sp - 1).toNat) (lowByte (s.cpu.pc - 1)))).setSp (s.cpu.sp - 2)).setPc a) := by
  simp [jumpSubroutine, operandAddr]

/-- Settles O29: the two bytes JSR stores are those RTS reads, and they lie at different addresses whatever SP is. -/
theorem rtsUndoesJsr : Obligations.RtsUndoesJsr := by
  intro s t a h
  have distinct : 0x100 + s.cpu.sp.toNat ≠ 0x100 + (s.cpu.sp - 1).toNat := by bv_omega
  have low : s.cpu.sp - 2 + 1 = s.cpu.sp - 1 := by bv_omega
  rw [exec_eq_operation, Instr.mnemonic, Instr.operand, operation, jumpSubroutine_abs, finish_ok] at h
  cases h
  rw [exec_eq_operation, Instr.mnemonic, operation, returnSubroutine, pull16_eq]
  simp only [State.setPc_cpu_sp, State.setSp_cpu_sp, State.setPc_ram, State.setSp_ram, State.setRam_ram, low,
    BitVec.sub_add_cancel, Memory.read_write_same, Memory.read_write_ne _ _ distinct, word_lowByte_highByte, Res.bind_ok, finish_ok]
  rfl

/-! ## The parts and their writers -/

/-- The parts of the state a frame speaks of: the registers (10_state.md R30 to R32), the flags (R33) and RAM. -/
inductive StatePart where
  | a | x | y | sp | pc | c | z | i | d | b | v | n | ram

/-- The part is in `t` as it was in `s`. -/
@[simp] def StatePart.Same : StatePart → State → State → Prop
  | .a, s, t => t.cpu.a = s.cpu.a
  | .x, s, t => t.cpu.x = s.cpu.x
  | .y, s, t => t.cpu.y = s.cpu.y
  | .sp, s, t => t.cpu.sp = s.cpu.sp
  | .pc, s, t => t.cpu.pc = s.cpu.pc
  | .c, s, t => t.cpu.p.c = s.cpu.p.c
  | .z, s, t => t.cpu.p.z = s.cpu.p.z
  | .i, s, t => t.cpu.p.i = s.cpu.p.i
  | .d, s, t => t.cpu.p.d = s.cpu.p.d
  | .b, s, t => t.cpu.p.b = s.cpu.p.b
  | .v, s, t => t.cpu.p.v = s.cpu.p.v
  | .n, s, t => t.cpu.p.n = s.cpu.p.n
  | .ram, s, t => t.ram = s.ram

/-- The writers of Z and N (10_state.md R35). -/
@[simp] def znWriters : List Mnemonic :=
  [.LDA, .LDX, .LDY, .TAX, .TAY, .TXA, .TYA, .TSX, .ADC, .SBC, .AND, .ORA, .EOR, .CMP, .CPX, .CPY, .BIT, .INC, .DEC, .INX, .INY,
    .DEX, .DEY, .ASL, .LSR, .ROL, .ROR, .PLA, .PLP, .RTI]

/-- The instructions that may write the part, by mnemonic and operand (10_state.md R30 to R36). A shift writes A in Accumulator
mode only, and RAM in the others only. -/
@[simp] def StatePart.WrittenBy (f : StatePart) (m : Mnemonic) (o : Operand) : Prop :=
  match f with
  | .a => m ∈ [Mnemonic.LDA, .ADC, .SBC, .AND, .ORA, .EOR, .TXA, .TYA, .PLA] ∨ m ∈ Spec.shifts ∧ o = .acc
  | .x => m ∈ [Mnemonic.LDX, .TAX, .TSX, .INX, .DEX]
  | .y => m ∈ [Mnemonic.LDY, .TAY, .INY, .DEY]
  | .sp => m ∈ [Mnemonic.TXS, .PHA, .PHP, .PLA, .PLP, .JSR, .RTS, .BRK, .RTI]
  | .pc => m ∈ [Mnemonic.BCC, .BCS, .BEQ, .BNE, .BMI, .BPL, .BVC, .BVS, .JMP, .JSR, .RTS, .BRK, .RTI]
  | .c => m ∈ [Mnemonic.ADC, .SBC, .CMP, .CPX, .CPY, .ASL, .LSR, .ROL, .ROR, .CLC, .SEC, .PLP, .RTI]
  | .z => m ∈ znWriters
  | .i => m ∈ [Mnemonic.SEI, .CLI, .PLP, .RTI, .BRK]
  | .d => m ∈ [Mnemonic.SED, .CLD, .PLP, .RTI]
  | .b => m ∈ [Mnemonic.PLP, .RTI]
  | .v => m ∈ [Mnemonic.ADC, .SBC, .BIT, .CLV, .PLP, .RTI]
  | .n => m ∈ znWriters
  | .ram => m ∈ Spec.pushers ∨ m ∈ Spec.operandWriters ∧ o ≠ .acc

/-! ## What the shapes leave the same -/

/-- A part is the same when the CPU is, a fault record aside, and when RAM is, if that is the part. -/
theorem StatePart.Same.of_cpu {f : StatePart} {s t : State} (hc : t.cpu = s.cpu ∨ StoppedCpu s t)
    (hr : f = .ram → t.ram = s.ram) : f.Same s t := by
  rcases hc with hc | ⟨g, hc⟩ <;> cases f <;> simp [hc] at hr ⊢ <;> exact hr

theorem StatePart.Same.trans {f : StatePart} {s t u : State} (h : f.Same s t) (k : f.Same t u) : f.Same s u := by
  cases f <;> exact Eq.trans k h

@[simp] theorem Res.leadsTo_ok {s t : State} : (Res.ok () s).LeadsTo t ↔ t = s := by
  simp [Res.LeadsTo, eq_comm]

/-- An instruction that reads a value leaves the same what its continuation does. -/
theorem value_same {f : StatePart} {o : Operand} {s t : State} {k : Byte → State → Res Unit} (hv : modeHasValue o.mode = true)
    (hk : ∀ v u, (k v u).LeadsTo t → f.Same u t) (h : ((operandValue o s).bind k).LeadsTo t) : f.Same s t := by
  rcases value_shape hv h with ⟨hc, hr, -⟩ | ⟨v, u, -, hc, hr, -, hu⟩
  · exact .of_cpu (.inr hc) fun _ => hr
  · exact (StatePart.Same.of_cpu (.inl hc) fun _ => hr).trans (hk v u hu)

/-- An instruction that finds an address leaves the same what its continuation does. -/
theorem addr_same {f : StatePart} {o : Operand} {s t : State} {k : Addr → State → Res Unit} (ha : modeHasAddress o.mode = true)
    (hk : ∀ a u, (k a u).LeadsTo t → f.Same u t) (h : ((operandAddr o s).bind k).LeadsTo t) : f.Same s t := by
  rcases addr_shape ha h with ⟨hc, hr, -⟩ | ⟨a, u, -, hc, hr, -, hu⟩
  · exact .of_cpu (.inr hc) fun _ => hr
  · exact (StatePart.Same.of_cpu (.inl hc) fun _ => hr).trans (hk a u hu)

/-- A bus write leaves everything but RAM the same. -/
theorem write_same {f : StatePart} (hf : f ≠ .ram) {a : Addr} {v : Byte} {s t : State} (h : (busWrite a v s).LeadsTo t) :
    f.Same s t :=
  .of_cpu (write_shape h).1 fun e => absurd e hf

/-- A read-modify-write of memory leaves the same what its continuation does, but for RAM. -/
theorem rmw_same {f : StatePart} (hf : f ≠ .ram) {o : Operand} {s t : State} {g : Byte → Byte} {k : Byte → State → Res Unit}
    (ha : modeHasAddress o.mode = true) (hi : o.mode ≠ .ind) (hk : ∀ v u, (k v u).LeadsTo t → f.Same u t)
    (h : (readModifyWrite o g k s).LeadsTo t) : f.Same s t := by
  obtain ⟨a, -, ⟨hc, hr⟩ | ⟨v, u, hc, -, hu⟩⟩ := rmw_shape ha hi h
  · exact .of_cpu (.inr hc) fun _ => hr
  · exact (StatePart.Same.of_cpu (.inl hc) fun e => absurd e hf).trans (hk v u hu)

/-! ## The frame -/

theorem eq_acc_of_mode {o : Operand} (h : o.mode = .acc) : o = .acc := by
  cases o <;> cases h
  rfl

theorem eq_rel_of_mode {o : Operand} (h : o.mode = .rel) : ∃ r, o = .rel r := by
  cases o <;> cases h
  exact ⟨_, rfl⟩

theorem eq_abs_of_mode {o : Operand} (h : o.mode = .abs) : ∃ a, o = .abs a := by
  cases o <;> cases h
  exact ⟨_, rfl⟩

/-- A store or a read-modify-write works on A or on an address found without a pointer outside zero page. -/
theorem operandWriters_mode {m : Mnemonic} {o : Operand} (hw : m ∈ Spec.operandWriters) (hm : o.mode ∈ m.modes) :
    o = .acc ∨ modeHasAddress o.mode = true ∧ o.mode ≠ .ind := by
  have table : ∀ m ∈ Spec.operandWriters, ∀ d ∈ m.modes, d = .acc ∨ modeHasAddress d = true ∧ d ≠ .ind := by decide
  exact (table m hw _ hm).imp_left eq_acc_of_mode

/-- Only the shifts have an Accumulator mode. -/
theorem acc_mode_iff (m : Mnemonic) : Mode.acc ∈ m.modes ↔ m ∈ Spec.shifts := by
  cases m <;> decide

/-- A branch leaves the same everything but PC. -/
theorem branch_same {f : StatePart} (hf : f ≠ .pc) {c : Bool} {o : Operand} {s t : State} (ho : o.mode = .rel)
    (h : (branch c o s).LeadsTo t) : f.Same s t := by
  obtain ⟨r, rfl⟩ := eq_rel_of_mode ho
  unfold branch at h
  split at h <;> obtain rfl := Res.leadsTo_ok.mp h
  · cases f <;> simp at hf ⊢
  · exact .of_cpu (.inl rfl) fun _ => rfl

/-- The operation of a mnemonic leaves the same every part that is not one of those it may write. -/
theorem operation_frame {m : Mnemonic} {o : Operand} {s t : State} (hm : o.mode ∈ m.modes) (h : (operation m o s).LeadsTo t)
    {f : StatePart} (hf : ¬f.WrittenBy m o) : f.Same s t := by
  have memory (hw : m ∈ Spec.operandWriters) (ho : o ≠ .acc) :
      f ≠ .ram ∧ modeHasAddress o.mode = true ∧ o.mode ≠ .ind :=
    ⟨fun e => hf (e ▸ .inr ⟨hw, ho⟩), (operandWriters_mode hw hm).resolve_left ho⟩
  have not_acc (hs : m ∉ Spec.shifts) : o ≠ .acc := by
    rintro rfl
    exact hs ((acc_mode_iff m).mp hm)
  have value (hv : ∀ d ∈ m.modes, modeHasValue d = true) : modeHasValue o.mode = true := hv _ hm
  have address (ha : ∀ d ∈ m.modes, modeHasAddress d = true) : modeHasAddress o.mode = true := ha _ hm
  have only {d : Mode} (hd : m.modes = [d]) : o.mode = d := List.mem_singleton.mp (hd ▸ hm)
  cases m
  case LDA | LDX | LDY | AND | ORA | EOR | ADC | SBC | CMP | CPX | CPY | BIT =>
    refine value_same (value (by decide)) (fun v u hu => ?_) h
    obtain rfl := Res.leadsTo_ok.mp hu
    cases f <;> simp [Spec.shifts, flagsZN, flagsAdd, flagsCompare, flagsBitTest] at hf ⊢
  case STA | STX | STY =>
    obtain ⟨hr, ha, -⟩ := memory (by decide) (not_acc (by decide))
    exact addr_same ha (fun _ _ => write_same hr) h
  case INC | DEC =>
    obtain ⟨hr, ha, hi⟩ := memory (by decide) (not_acc (by decide))
    simp only [operation, stepMemory] at h
    refine rmw_same hr ha hi (fun v u hu => ?_) h
    obtain rfl := Res.leadsTo_ok.mp hu
    cases f <;> simp [flagsZN] at hf ⊢
  case ASL | LSR | ROL | ROR =>
    simp only [operation, shift] at h
    by_cases ho : o = .acc
    · subst ho
      obtain rfl := Res.leadsTo_ok.mp h
      cases f <;> simp [Spec.shifts, flagsShift, flagsZN] at hf ⊢
    · obtain ⟨hr, ha, hi⟩ := memory (by decide) ho
      refine rmw_same hr ha hi (fun v u hu => ?_) h
      obtain rfl := Res.leadsTo_ok.mp hu
      cases f <;> simp [flagsShift, flagsZN] at hf ⊢
  case BCC | BCS | BEQ | BNE | BMI | BPL | BVC | BVS =>
    refine branch_same ?_ (only rfl) h
    rintro rfl
    simp at hf
  case JMP =>
    refine addr_same (address (by decide)) (fun a u hu => ?_) h
    obtain rfl := Res.leadsTo_ok.mp hu
    cases f <;> simp at hf ⊢
  case JSR =>
    obtain ⟨a, rfl⟩ := eq_abs_of_mode (only rfl)
    rw [operation, jumpSubroutine_abs, Res.leadsTo_ok] at h
    subst h
    cases f <;> simp [Spec.pushers] at hf ⊢
  case BRK =>
    rw [operation, enterInterrupt_eq _ _ _ (by decide) (by decide), Res.leadsTo_ok] at h
    subst h
    cases f <;> simp [Spec.pushers] at hf ⊢
  case RTI =>
    rw [operation, returnFromInterrupt_eq, Res.leadsTo_ok] at h
    subst h
    cases f <;> simp at hf ⊢
  case RTS | PHA | PHP | PLA | PLP =>
    simp only [operation, returnSubroutine, pullA, pullP, push_eq, pull_eq, pull16_eq, Res.bind_ok, Res.leadsTo_ok] at h
    subst h
    cases f <;> simp [Spec.pushers, flagsZN] at hf ⊢
  -- What is left writes registers only, whatever the state is.
  all_goals
    obtain rfl := Res.leadsTo_ok.mp h
    cases f <;> simp [flagsZN] at hf ⊢

/-- An instruction leaves the same every part that is not one of those it may write, on a fault too. -/
theorem exec_frame {i : Instr} {s t : State} (h : exec i s = .next t) (f : StatePart) (hf : ¬f.WrittenBy i.mnemonic i.operand) :
    f.Same s t :=
  operation_frame (mode_mem_modes i) (exec_leadsTo h) hf

/-- Settles O35: the writers of the five registers in `StatePart.WrittenBy` are those listed. -/
theorem onlyTheListedInstructionsWriteARegister : Obligations.OnlyTheListedInstructionsWriteARegister := by
  intro i s t h
  have frame := exec_frame h
  exact ⟨fun h1 h2 => frame .a (not_or.mpr ⟨h1, h2⟩), frame .x, frame .y, frame .sp, frame .pc⟩

/-- Settles O36: the writers of the seven flags in `StatePart.WrittenBy` are those of the table of R35. -/
theorem onlyTheListedInstructionsWriteAFlag : Obligations.OnlyTheListedInstructionsWriteAFlag := by
  intro i s t h
  have frame := exec_frame h
  exact ⟨frame .c, fun hm => ⟨frame .z hm, frame .n hm⟩, frame .i, frame .d, frame .b, frame .v⟩

/-! ## The bytes of RAM stored to -/

/-- A store or a read-modify-write with an address changes no byte of RAM but the one the address names. -/
theorem operandWriter_ramExcept {m : Mnemonic} {o : Operand} {s t u : State} {a : Addr} (hw : m ∈ Spec.operandWriters)
    (hm : o.mode ∈ m.modes) (ha : operandAddr o s = .ok a u) (h : (operation m o s).LeadsTo t) : RamExcept a s t := by
  have ho : o ≠ .acc := by
    rintro rfl
    simp [operandAddr] at ha
  obtain ⟨hadr, hi⟩ := (operandWriters_mode hw hm).resolve_left ho
  obtain ⟨rfl, -⟩ := operandAddr_ok hi ha
  have store {v : Byte} (h : (store v o u).LeadsTo t) : RamExcept a u t := by
    rw [store, ha, Res.bind_ok] at h
    exact (write_shape h).2
  have modify {g : Byte → Byte} {k : Byte → State → Res Unit} (hk : ∀ v w, (k v w).LeadsTo t → t.ram = w.ram)
      (h : (readModifyWrite o g k u).LeadsTo t) : RamExcept a u t := by
    obtain ⟨a', ha', hc⟩ := rmw_shape hadr hi h
    obtain ⟨rfl, -⟩ : a = a' ∧ u = u := by simpa [ha] using ha'
    rcases hc with ⟨-, hr⟩ | ⟨v, w, -, hr, hw⟩
    · exact fun j _ => by rw [hr]
    · exact fun j hj => by rw [hk v w hw, hr j hj]
  cases m
  case STA | STX | STY => exact store h
  case INC | DEC | ASL | LSR | ROL | ROR =>
    simp only [operation, shift, stepMemory] at h
    refine modify (fun v w hw => ?_) h
    obtain rfl := Res.leadsTo_ok.mp hw
    rfl
  all_goals exact absurd hw (by decide)

/-- A push changes no byte of RAM but the one SP names. -/
theorem push_ram_read_ne {v : Byte} {s t : State} (h : (push v s).LeadsTo t) {k : Nat} (hk : k ≠ 0x100 + s.cpu.sp.toNat) :
    t.ram.read k = s.ram.read k := by
  rw [push_eq, Res.leadsTo_ok] at h
  subst h
  exact Memory.read_write_ne _ _ hk

/-- Settles O37: an instruction outside the writers of RAM by the frame, the operand's writers by the shape of their write, and the
pushes by what they store. -/
theorem onlyTheStoredBytesOfRamChange : Obligations.OnlyTheStoredBytesOfRamChange := by
  intro i s t h
  have frame (hf : ¬StatePart.ram.WrittenBy i.mnemonic i.operand) (k : Nat) : t.ram.read k = s.ram.read k := by
    rw [show t.ram = s.ram from exec_frame h .ram hf]
  have hop := exec_leadsTo h
  have hm := mode_mem_modes i
  refine ⟨fun hw hp => frame (not_or.mpr ⟨hp, fun ⟨hm, _⟩ => hw hm⟩), fun hw ho => frame ?_, fun hw a u ha => ?_,
    fun hp k hk => ?_, fun hj k h1 h2 => ?_, fun hb k h1 h2 h3 => ?_⟩
  · have disjoint : ∀ m ∈ Spec.operandWriters, m ∉ Spec.pushers := by decide
    exact not_or.mpr ⟨disjoint _ hw, fun ⟨_, hne⟩ => hne ho⟩
  · exact operandWriter_ramExcept hw hm ha hop
  · simp only [List.mem_cons, List.not_mem_nil, or_false] at hp
    rcases hp with hp | hp <;> rw [hp] at hop <;> exact push_ram_read_ne hop hk
  · rw [hj] at hop hm
    obtain ⟨a, ha⟩ := eq_abs_of_mode (List.mem_singleton.mp hm)
    rw [ha, operation, jumpSubroutine_abs, Res.leadsTo_ok] at hop
    subst hop
    exact (Memory.read_write_ne _ _ h2).trans (Memory.read_write_ne _ _ h1)
  · rw [hb, operation, enterInterrupt_eq _ _ _ (by decide) (by decide), Res.leadsTo_ok] at hop
    subst hop
    exact ((Memory.read_write_ne _ _ h3).trans (Memory.read_write_ne _ _ h2)).trans (Memory.read_write_ne _ _ h1)

end Sys2Proof.Machine
end

section
/-! PROOFS. The status byte, and fetching the bytes at PC that encode an instruction. -/

namespace Sys2Proof

/-! ## The opcode map -/

/-- What the form of a row makes of the operand bytes is the instruction `i`, and it uses them all (30_encoding.md R142). -/
def OpForm.Gives : OpForm → List Byte → Instr → Prop
  | .zero j, bytes, i => bytes = [] ∧ j = i
  | .one f, bytes, i => ∃ b, bytes = [b] ∧ f b = i
  | .two f, bytes, i => ∃ lo hi, bytes = [lo, hi] ∧ f (word lo hi) = i

/-- The opcode of an instruction selects a row whose form gives the instruction back from its operand bytes. The opcode is put in
first, so that the search of the table compares literals. -/
theorem opcodeRow_gives (i : Instr) : ∃ row, opcodeRow i.opcode = some row ∧ row.form.Gives i.operand.bytes i := by
  cases i <;> simp only [Instr.opcode] <;> refine ⟨_, rfl, ?_⟩ <;> simp [OpForm.Gives, Operand.bytes, Instr.operand]

end Sys2Proof

namespace Sys2Proof.Machine

/-! ## The status byte -/

/-- Bit by bit what `pack` makes of the flags (10_state.md R34), over the 128 status bytes. -/
theorem pack_bits (p : Flags) (b : Bool) :
    (pack p b).getLsbD 7 = p.n ∧ (pack p b).getLsbD 6 = p.v ∧ (pack p b).getLsbD 5 = true ∧ (pack p b).getLsbD 4 = b ∧
      (pack p b).getLsbD 3 = p.d ∧ (pack p b).getLsbD 2 = p.i ∧ (pack p b).getLsbD 1 = p.z ∧ (pack p b).getLsbD 0 = p.c := by
  obtain ⟨c, z, i, d, _, v, n⟩ := p
  simp only [pack]
  revert c z i d v n b
  decide

/-- Settles O33: the layout by `pack_bits`, and `unpack` by the seven bits it reads. -/
theorem statusByteLayout : Obligations.StatusByteLayout := by
  intro p b
  refine ⟨pack_bits p b, fun v w h => ?_, ?_⟩
  · unfold unpack bit
    congr 1 <;> exact h _ (by decide)
  · obtain ⟨n, v, -, hb, d, i, z, c⟩ := pack_bits p b
    simp only [unpack, bit, n, v, hb, d, i, z, c]

/-! ## Fetching -/

/-- The bytes from an address up, each of RAM or PRG-ROM. -/
def PeeksAt (s : State) (a : Addr) (bytes : List Byte) : Prop :=
  ∀ k b, bytes[k]? = some b → peek s (a + BitVec.ofNat 16 k) = some b

theorem PeeksAt.head {s : State} {a : Addr} {b : Byte} {bytes : List Byte} (h : PeeksAt s a (b :: bytes)) :
    peek s a = some b := by
  simpa using h 0 b rfl

theorem PeeksAt.tail {s : State} {a : Addr} {b : Byte} {bytes : List Byte} (h : PeeksAt s a (b :: bytes)) :
    PeeksAt s (a + 1) bytes := by
  intro k c hk
  have := h (k + 1) c (by simpa using hk)
  rwa [Nat.add_comm, BitVec.ofNat_add, ← BitVec.add_assoc] at this

/-- The first of the bytes at PC is fetched, and the others are then at PC. -/
theorem fetchByte_of_peeksAt {s : State} {b : Byte} {bytes : List Byte} (h : PeeksAt s s.cpu.pc (b :: bytes)) :
    fetchByte s = .ok b (s.setPc (s.cpu.pc + 1)) ∧ PeeksAt (s.setPc (s.cpu.pc + 1)) (s.setPc (s.cpu.pc + 1)).cpu.pc bytes :=
  ⟨fetchByte_of_peek h.head, h.tail⟩

/-- The bytes at PC that encode an instruction are fetched as that instruction, and PC moves past them (10_state.md R32). -/
theorem fetchInstr_of_peeksAt {s : State} {i : Instr} (h : PeeksAt s s.cpu.pc (encode i)) :
    fetchInstr s = .ok i (s.setPc (s.cpu.pc + BitVec.ofNat 16 (encode i).length)) := by
  obtain ⟨row, hrow, hform⟩ := opcodeRow_gives i
  obtain ⟨hop, hrest⟩ := fetchByte_of_peeksAt (bytes := i.operand.bytes) h
  rw [fetchInstr, hop, Res.bind_ok, encode]
  simp only [hrow]
  generalize row.form = form at hform
  cases form with
  | zero j =>
    obtain ⟨hbytes, rfl⟩ := hform
    rw [hbytes]
    rfl
  | one f =>
    obtain ⟨b, hbytes, rfl⟩ := hform
    rw [hbytes] at hrest ⊢
    obtain ⟨h1, -⟩ := fetchByte_of_peeksAt hrest
    simp only [h1, Res.bind_ok]
    exact congrArg (fun a => Res.ok (f b) (s.setPc a)) (BitVec.add_assoc _ 1 1)
  | two f =>
    obtain ⟨lo, hi, hbytes, rfl⟩ := hform
    rw [hbytes] at hrest ⊢
    obtain ⟨h1, hlast⟩ := fetchByte_of_peeksAt hrest
    obtain ⟨h2, -⟩ := fetchByte_of_peeksAt hlast
    have three : s.cpu.pc + 1 + 1 + 1 = s.cpu.pc + 3 := by rw [BitVec.add_assoc, BitVec.add_assoc]; rfl
    simp only [h1, h2, Res.bind_ok]
    exact congrArg (fun a => Res.ok (f (word lo hi)) (s.setPc a)) three

/-- A step without a fault or an NMI pending runs the instruction fetched and ends on its cost (60_exceptions.md R471). -/
theorem step_of_fetchInstr {s t u : State} {i : Instr} (hf : s.fault = none) (hn : s.nmiPending = false)
    (hi : fetchInstr s = .ok i t) (hu : exec i t = .next u) : step s = .next (endStep (cpuCost i t) u) := by
  simp [step, hf, systemStep, hn, fetchStep, hi, instrStep, hu]

/-- Settles O5: the fetch by `fetchInstr_of_peeksAt`, the step by `step_of_fetchInstr` and what its end does. -/
theorem stepRunsTheDecodedInstruction : Obligations.StepRunsTheDecodedInstruction := by
  intro s i
  refine ⟨fetchInstr_of_peeksAt, fun t u hf hn hi hu => ?_⟩
  rw [step_of_fetchInstr hf hn hi hu, endStep_eq]
  rfl

end Sys2Proof.Machine
end

section
/-! PROOFS. The bus router: where each address goes (20_memory.md R83 to R90), what a RAM store is seen as, and OAM DMA. -/

namespace Sys2Proof.Machine

/-! ## Faults -/

/-- Raising a fault sets the record and does nothing else (60_exceptions.md R451, R453). -/
theorem raise_eq_faulted {α : Type} (f : Fault) (s : State) : (raise f s : Res α) = .stopped (Spec.faulted s f) := rfl

/-! ## The PPU window -/

/-- The address below 0x2008 that names the same register of the window (20_memory.md R85). -/
theorem toNat_windowBase (a : Addr) : (BitVec.ofNat 16 (0x2000 + a.toNat % 8)).toNat = 0x2000 + a.toNat % 8 := by
  rw [BitVec.toNat_ofNat]
  omega

theorem ppuRegAt_windowBase (a : Addr) : ppuRegAt (BitVec.ofNat 16 (0x2000 + a.toNat % 8)) = ppuRegAt a := by
  have same : (0x2000 + a.toNat % 8) % 8 = a.toNat % 8 := by omega
  rw [ppuRegAt, toNat_windowBase, same, ppuRegAt]

theorem busRead_windowBase {a : Addr} (s : State) (h1 : 0x2000 ≤ a.toNat) (h2 : a.toNat < 0x4000) :
    busRead (BitVec.ofNat 16 (0x2000 + a.toNat % 8)) s = busRead a s := by
  have base := toNat_windowBase a
  rw [busRead_window s h1 h2, busRead_window s (by omega) (by omega), ppuRegAt_windowBase]

theorem busWrite_windowBase {a : Addr} (v : Byte) (s : State) (h1 : 0x2000 ≤ a.toNat) (h2 : a.toNat < 0x4000) :
    busWrite (BitVec.ofNat 16 (0x2000 + a.toNat % 8)) v s = busWrite a v s := by
  have base := toNat_windowBase a
  rw [busWrite_window v s h1 h2, busWrite_window v s (by omega) (by omega), ppuRegAt_windowBase]

/-- A register whose read is undefined faults with its own name (20_memory.md R86). -/
theorem ppuRegRead_undefined {r : PpuReg} (s : State) (h : r ∈ [PpuReg.ctrl, .mask, .oamAddr, .scroll, .addr]) :
    ppuRegRead r s = .stopped (Spec.faulted s (.ppuRegisterUndefined r .read)) := by
  cases r
  case ctrl | mask | oamAddr | scroll | addr => rfl
  case status | oamData | data => simp at h

/-- The register of an address by its index, the address mod 8 (20_memory.md R85, R86). -/
theorem ppuRegAt_of_index {a : Addr} {r : PpuReg} (h : a.toNat % 8 = ppuRegIndex r) : ppuRegAt a = r := by
  rw [ppuRegAt, h]
  cases r <;> rfl

/-- A read of the window at a register whose read is undefined. -/
theorem busRead_undefined {a : Addr} (s : State) (h1 : 0x2000 ≤ a.toNat) (h2 : a.toNat < 0x4000) {r : PpuReg}
    (hr : a.toNat % 8 = ppuRegIndex r) (h : r ∈ [PpuReg.ctrl, .mask, .oamAddr, .scroll, .addr]) :
    busRead a s = .stopped (Spec.faulted s (.ppuRegisterUndefined r .read)) := by
  rw [busRead_window s h1 h2, ppuRegAt_of_index hr, ppuRegRead_undefined s h]

/-! ## The unmapped region and PRG-ROM -/

theorem busRead_unmapped {a : Addr} (s : State) (h1 : 0x4000 ≤ a.toNat) (h2 : a.toNat < 0x8000) : busRead a s = ioRead a s := by
  simp [busRead, h2, show ¬ a.toNat < 0x2000 by omega, show ¬ a.toNat < 0x4000 by omega]

theorem busWrite_unmapped {a : Addr} (v : Byte) (s : State) (h1 : 0x4000 ≤ a.toNat) (h2 : a.toNat < 0x8000)
    (hd : a ≠ Config.dmaPort) : busWrite a v s = ioWrite a s := by
  simp [busWrite, h2, hd, show ¬ a.toNat < 0x2000 by omega, show ¬ a.toNat < 0x4000 by omega]

theorem busWrite_prg {a : Addr} (v : Byte) (s : State) (h : 0x8000 ≤ a.toNat) : busWrite a v s = romWrite a v s := by
  have hd : a ≠ Config.dmaPort := by
    rintro rfl
    exact absurd h (by decide)
  simp [busWrite, hd, show ¬ a.toNat < 0x2000 by omega, show ¬ a.toNat < 0x4000 by omega, show ¬ a.toNat < 0x8000 by omega]

/-- Under the Fault policy the unmapped region records the access (20_memory.md R88). -/
theorem ioRead_fault {s : State} (a : Addr) (h : s.params.ioPolicy = .fault) :
    ioRead a s = .stopped (Spec.faulted s (.busUnmapped a .read)) := by
  rw [ioRead, h, raise_eq_faulted]

/-- Under the Stub policy it reads as the next free byte (log entry 5). -/
theorem ioRead_stub {s : State} (a : Addr) (h : s.params.ioPolicy = .stub) :
    ioRead a s = .ok (Config.draw s.draws) (s.setDraws (s.draws + 1)) := by
  rw [ioRead, h]

theorem ioWrite_fault {s : State} (a : Addr) (h : s.params.ioPolicy = .fault) :
    ioWrite a s = .stopped (Spec.faulted s (.busUnmapped a .write)) := by
  rw [ioWrite, h, raise_eq_faulted]

theorem ioWrite_stub {s : State} (a : Addr) (h : s.params.ioPolicy = .stub) : ioWrite a s = .ok () s := by
  rw [ioWrite, h]

theorem romWrite_ignore {s : State} (a : Addr) (v : Byte) (h : s.params.romWrite = .ignore) : romWrite a v s = .ok () s := by
  rw [romWrite, h]

theorem romWrite_fault {s : State} (a : Addr) (v : Byte) (h : s.params.romWrite = .fault) :
    romWrite a v s = .stopped (Spec.faulted s (.romWrite a v)) := by
  rw [romWrite, h, raise_eq_faulted]

/-! ## The router -/

/-- Settles O39: one lemma for each region, and in the window one for the register that the address names. -/
theorem busReadsAreRoutedByAddress : Obligations.BusReadsAreRoutedByAddress := by
  intro s a
  refine ⟨busRead_ram s, fun h1 h2 => ⟨(busRead_windowBase s h1 h2).symm, ?_⟩, fun h1 h2 => ?_, busRead_prg s⟩
  · have undefined {r : PpuReg} := @busRead_undefined a s h1 h2 r
    exact ⟨(undefined · (by decide)), (undefined · (by decide)), (undefined · (by decide)), (undefined · (by decide)),
      (undefined · (by decide))⟩
  · rw [busRead_unmapped s h1 h2]
    exact ⟨ioRead_fault a, ioRead_stub a⟩

/-- Settles O40: one lemma for each region. -/
theorem busWritesAreRoutedByAddress : Obligations.BusWritesAreRoutedByAddress := by
  intro s a v
  refine ⟨busWrite_ram v s, fun h1 h2 => ⟨(busWrite_windowBase v s h1 h2).symm, fun h => ?_⟩, fun h1 h2 hd => ?_,
    fun h => ?_⟩
  · rw [busWrite_window v s h1 h2, ppuRegAt_of_index (r := .status) h, ppuRegWrite, raise_eq_faulted]
  · rw [busWrite_unmapped v s h1 h2 hd]
    exact ⟨ioWrite_fault a, ioWrite_stub a⟩
  · rw [busWrite_prg v s h]
    exact ⟨romWrite_ignore a v, romWrite_fault a v⟩

/-- RAM is peeked at its address mod 2048 (20_memory.md R84). -/
theorem peek_ram {a : Addr} (s : State) (h : a.toNat < 0x2000) : peek s a = some (s.ram.read (a.toNat % Config.ramSize)) := by
  rw [peek, if_pos h]

/-- Settles O41: the store changes one cell of RAM, and an address names the cell of its number mod 2048. -/
theorem ramStoresAreSeenAtEveryAlias : Obligations.RamStoresAreSeenAtEveryAlias := by
  intro s t a b v ha hb h
  rw [busWrite_ram v s ha] at h
  cases h
  rw [peek_ram _ hb, peek_ram s hb]
  refine ⟨fun same => ?_, fun other => ?_⟩
  · have stored : (s.ram.write (a.toNat % Config.ramSize) v).read (b.toNat % Config.ramSize) = v := by
      rw [Config.ramSize, same, Memory.read_write_same]
    exact ⟨by rw [busRead_ram _ hb, State.setRam_ram, stored], congrArg some stored⟩
  · exact congrArg some (Memory.read_write_ne _ v (Ne.symm other))

/-! ## OAM DMA -/

theorem busWrite_dmaPort (v : Byte) (s : State) : busWrite 0x4014 v s = oamDma v s := rfl

/-- Consecutive reads, given what each of them does: `st i` is the state before the `i`th. -/
theorem readBlock_eq_ok {n : Nat} {a : Addr} {f : Nat → Byte} {st : Nat → State}
    (h : ∀ i < n, busRead (a + BitVec.ofNat 16 i) (st i) = .ok (f i) (st (i + 1))) :
    readBlock n a (st 0) = .ok ((List.range n).map f) (st n) := by
  induction n generalizing a f st with
  | zero => rfl
  | succ n ih =>
    have first : busRead a (st 0) = .ok (f 0) (st 1) := by simpa using h 0 (Nat.zero_lt_succ n)
    have rest : readBlock n (a + 1) (st 1) = .ok ((List.range n).map fun i => f (i + 1)) (st (n + 1)) := by
      refine ih (f := fun i => f (i + 1)) (st := fun i => st (i + 1)) fun i hi => ?_
      have shifted : a + 1 + BitVec.ofNat 16 i = a + BitVec.ofNat 16 (i + 1) := by
        rw [BitVec.ofNat_add, BitVec.add_assoc, BitVec.add_comm 1]
        rfl
      rw [shifted]
      exact h (i + 1) (Nat.succ_lt_succ hi)
    rw [readBlock, first, Res.bind_ok, rest, Res.bind_ok, List.range_succ_eq_map, List.map_cons, List.map_map]
    rfl

/-- The `i`th address of a page (20_memory.md R87). -/
theorem page_address (v : Byte) (i : Nat) : word 0x00 v + BitVec.ofNat 16 i = BitVec.ofNat 16 (v.toNat * 256 + i) := by
  rw [word_eq_ofNat, ← BitVec.ofNat_add]
  simp [Nat.mul_comm]

/-- The first address of a page. -/
theorem page_start (v : Byte) : word 0x00 v = BitVec.ofNat 16 (v.toNat * 256) := by
  simpa using page_address v 0

theorem toNat_page_start (v : Byte) : (BitVec.ofNat 16 (v.toNat * 256)).toNat = v.toNat * 256 := by
  have := v.isLt
  rw [BitVec.toNat_ofNat]
  omega

theorem toNat_page_address (v : Byte) {i : Nat} (hi : i < 256) :
    (BitVec.ofNat 16 (v.toNat * 256 + i)).toNat = v.toNat * 256 + i := by
  have := v.isLt
  rw [BitVec.toNat_ofNat]
  omega

/-- OAM DMA whose 256 reads go on puts their bytes into OAM, in order (20_memory.md R87, R94). -/
theorem oamDma_eq_ok {v : Byte} {f : Nat → Byte} {st : Nat → State}
    (h : ∀ i < 256, busRead (BitVec.ofNat 16 (v.toNat * 256 + i)) (st i) = .ok (f i) (st (i + 1))) :
    ∃ oam : Memory, oamDma v (st 0) = .ok () ((st 256).setVmem { (st 256).vmem with oam := oam }) ∧
      ∀ i < 256, oam.read i = f i := by
  have reads := readBlock_eq_ok fun i hi => (page_address v i).symm ▸ h i hi
  refine ⟨(st 256).vmem.oam.writeList 0 ((List.range 256).map f), ?_, fun i hi => ?_⟩
  · rw [oamDma, reads, Res.bind_ok, oamTransfer_256 _ (by simp)]
  · simp [Memory.read_writeList, hi]

/-- OAM DMA stops at its first read if that faults (60_exceptions.md R453). -/
theorem oamDma_first_stopped {v : Byte} {s t : State} (h : busRead (BitVec.ofNat 16 (v.toNat * 256)) s = .stopped t) :
    oamDma v s = .stopped t := by
  rw [oamDma, readBlock, page_start, h]
  rfl

/-- RAM and PRG-ROM hold a byte at every address. -/
theorem peek_eq_some {a : Addr} (s : State) (h : a.toNat < 0x2000 ∨ 0x8000 ≤ a.toNat) : ∃ b, peek s a = some b := by
  unfold peek
  split_ifs with h1 h2
  · exact ⟨_, rfl⟩
  · omega
  · exact ⟨_, rfl⟩

/-- Settles O42: a page of RAM or PRG-ROM is read without side effect, the first address of a page of the window names
PPUCTRL, and under Stub each read of the unmapped region draws the next free byte. -/
theorem oamDmaCopiesThePage : Obligations.OamDmaCopiesThePage := by
  intro s v
  have start := toNat_page_start v
  rw [busWrite_dmaPort]
  refine ⟨fun hv => ?_, fun h1 h2 => ?_, fun h1 h2 => ⟨fun policy => ?_, fun policy => ?_⟩⟩
  · have held (i : Nat) (hi : i < 256) : ∃ b, peek s (BitVec.ofNat 16 (v.toNat * 256 + i)) = some b :=
      peek_eq_some s (by rw [toNat_page_address v hi]; omega)
    choose! f hf using held
    obtain ⟨oam, hdma, hoam⟩ := oamDma_eq_ok (st := fun _ => s) fun i hi => busRead_of_peek (hf i hi)
    exact ⟨oam, hdma, fun i hi => by rw [hf i hi, hoam i hi]⟩
  · have ctrl : (BitVec.ofNat 16 (v.toNat * 256)).toNat % 8 = ppuRegIndex .ctrl := by
      rw [start, ppuRegIndex]
      omega
    exact oamDma_first_stopped (busRead_undefined s (by omega) (by omega) ctrl (by decide))
  · exact oamDma_first_stopped (by rw [busRead_unmapped s (by omega) (by omega), ioRead_fault _ policy])
  · refine oamDma_eq_ok (f := fun i => Config.draw (s.draws + i)) (st := fun i => s.setDraws (s.draws + i)) fun i hi => ?_
    have address := toNat_page_address v hi
    rw [busRead_unmapped _ (by omega) (by omega)]
    exact ioRead_stub (s := s.setDraws (s.draws + i)) _ policy

end Sys2Proof.Machine
end

section
/-! PROOFS. PPU memory: nametable mirroring, pattern writes by policy, and the palette's two adjustments (20_memory.md R100 to
R108). -/

namespace Sys2Proof.Machine

/-! ## Reads by region -/

theorem ppuMemRead_pattern {a : Addr} (s : State) (h : ppuAddress a < 0x2000) :
    ppuMemRead a s = s.vmem.chr.read (ppuAddress a) := by
  simp [ppuMemRead, h]

theorem ppuMemRead_nametable {a : Addr} (s : State) (h1 : 0x2000 ≤ ppuAddress a) (h2 : ppuAddress a < 0x3F00) :
    ppuMemRead a s = s.vmem.ciram.read (ntIndex s.params.mirroring (ppuAddress a)) := by
  simp [ppuMemRead, h2, show ¬ ppuAddress a < 0x2000 by omega]

theorem ppuMemRead_palette {a : Addr} (s : State) (h : 0x3F00 ≤ ppuAddress a) :
    ppuMemRead a s = s.vmem.pal.read (palReadIndex s.params.palChain (ppuAddress a)) := by
  simp [ppuMemRead, show ¬ ppuAddress a < 0x2000 by omega, show ¬ ppuAddress a < 0x3F00 by omega]

/-! ## Writes by region -/

theorem ppuMemWrite_pattern {a : Addr} (v : Byte) (s : State) (h : ppuAddress a < 0x2000) :
    ppuMemWrite a v s = chrMemWrite (ppuAddress a) v s := by
  simp [ppuMemWrite, h]

theorem ppuMemWrite_nametable {a : Addr} (v : Byte) (s : State) (h1 : 0x2000 ≤ ppuAddress a) (h2 : ppuAddress a < 0x3F00) :
    ppuMemWrite a v s =
      .ok () (s.setVmem { s.vmem with ciram := s.vmem.ciram.write (ntIndex s.params.mirroring (ppuAddress a)) v }) := by
  simp [ppuMemWrite, h2, show ¬ ppuAddress a < 0x2000 by omega]

theorem ppuMemWrite_palette {a : Addr} (v : Byte) (s : State) (h : 0x3F00 ≤ ppuAddress a) :
    ppuMemWrite a v s = .ok () (s.setVmem { s.vmem with pal := s.vmem.pal.write (palWriteIndex (ppuAddress a)) v }) := by
  simp [ppuMemWrite, show ¬ ppuAddress a < 0x2000 by omega, show ¬ ppuAddress a < 0x3F00 by omega]

/-! ## Nametables -/

/-- The physical table of a nametable address: bit 10 under Vertical, bit 11 under Horizontal (20_memory.md R105). -/
def ntTable (m : Mirroring) (a : Addr) : Nat :=
  match m with
  | .vertical => a.toNat / 0x400 % 2
  | .horizontal => a.toNat / 0x800 % 2

/-- The physical byte of a nametable address is its offset in its physical table. -/
theorem ntIndex_eq (m : Mirroring) {a : Addr} (h : 0x2000 ≤ ppuAddress a) :
    ntIndex m (ppuAddress a) = ntTable m a * 0x400 + a.toNat % 0x400 := by
  unfold ppuAddress at h ⊢
  unfold ntIndex ntTable
  cases m <;> simp only <;> omega

/-- Two nametable addresses name one physical byte exactly when offset and physical table agree. -/
theorem ntIndex_eq_iff (m : Mirroring) {a b : Addr} (ha : 0x2000 ≤ ppuAddress a) (hb : 0x2000 ≤ ppuAddress b) :
    ntIndex m (ppuAddress b) = ntIndex m (ppuAddress a) ↔ b.toNat % 0x400 = a.toNat % 0x400 ∧ ntTable m b = ntTable m a := by
  rw [ntIndex_eq m ha, ntIndex_eq m hb]
  omega

/-- What every PPU address reads once a byte of ciram is stored: a nametable address of that physical byte reads it, every other
address reads as before. -/
theorem ppuMemRead_ciram_write (s : State) {a : Addr} (b : Addr) (v : Byte) (ha : 0x2000 ≤ ppuAddress a) :
    ppuMemRead b (s.setVmem { s.vmem with ciram := s.vmem.ciram.write (ntIndex s.params.mirroring (ppuAddress a)) v }) =
      if 0x2000 ≤ ppuAddress b ∧ ppuAddress b < 0x3F00 ∧ b.toNat % 0x400 = a.toNat % 0x400 ∧
          ntTable s.params.mirroring b = ntTable s.params.mirroring a then v
      else ppuMemRead b s := by
  by_cases hp : ppuAddress b < 0x2000
  · rw [ppuMemRead_pattern _ hp, ppuMemRead_pattern _ hp, if_neg (by omega)]
    rfl
  by_cases hn : ppuAddress b < 0x3F00
  · have hb : 0x2000 ≤ ppuAddress b := by omega
    rw [ppuMemRead_nametable _ hb hn, ppuMemRead_nametable _ hb hn]
    simp only [State.setVmem_vmem, State.setVmem_params, Memory.read_write, ntIndex_eq_iff _ ha hb, hb, hn, true_and]
  · rw [ppuMemRead_palette _ (by omega), ppuMemRead_palette _ (by omega), if_neg (by omega)]
    rfl

/-! ## Patterns -/

/-- What every PPU address reads once a byte of chr is stored. -/
theorem ppuMemRead_chr_write (s : State) {a : Addr} (b : Addr) (v : Byte) (ha : ppuAddress a < 0x2000) :
    ppuMemRead b (s.setVmem { s.vmem with chr := s.vmem.chr.write (ppuAddress a) v }) =
      if ppuAddress b = ppuAddress a then v else ppuMemRead b s := by
  by_cases hp : ppuAddress b < 0x2000
  · rw [ppuMemRead_pattern _ hp, ppuMemRead_pattern _ hp]
    simp only [State.setVmem_vmem, Memory.read_write]
  rw [if_neg (by omega)]
  by_cases hn : ppuAddress b < 0x3F00
  · rw [ppuMemRead_nametable _ (by omega) hn, ppuMemRead_nametable _ (by omega) hn]
    rfl
  · rw [ppuMemRead_palette _ (by omega), ppuMemRead_palette _ (by omega)]
    rfl

/-- The 14 bits a ChrWrite record holds (20_memory.md R104). -/
theorem ofNat_ppuAddress (a : Addr) : BitVec.ofNat 14 (ppuAddress a) = BitVec.ofNat 14 a.toNat := by
  apply BitVec.eq_of_toNat_eq
  simp [ppuAddress]

/-- Settles O43: after the one cell that a write stores, every PPU address is read by its region. -/
theorem nametablesAreMirroredAndPatternsFollowThePolicy : Obligations.NametablesAreMirroredAndPatternsFollowThePolicy := by
  intro s a v table
  have htable : table = ntTable s.params.mirroring := rfl
  refine ⟨fun h1 h2 => ⟨_, ppuMemWrite_nametable v s h1 h2, fun b => ?_⟩, fun h => ?_⟩
  · have read := ppuMemRead_ciram_write s b v h1
    rw [htable]
    split_ifs with hb
    · exact read.trans (if_pos hb)
    · exact read.trans (if_neg hb)
  rw [ppuMemWrite_pattern v s h]
  refine ⟨fun policy => ?_, fun policy => ⟨s.vmem.chr.write (ppuAddress a) v, ?_, fun b => ?_⟩, fun policy => ?_⟩
  · rw [chrMemWrite, policy]
  · rw [chrMemWrite, policy]
    rfl
  · have read := ppuMemRead_chr_write s b v h
    split_ifs with hb
    · exact read.trans (if_pos hb)
    · exact read.trans (if_neg hb)
  · rw [chrMemWrite, policy, ofNat_ppuAddress]
    rfl

/-! ## The palette -/

/-- The slot of a palette address: its last five bits (20_memory.md R106, R107). -/
theorem palette_slot (a : Addr) : ppuAddress a % 0x20 = a.toNat % 32 := by
  unfold ppuAddress
  omega

/-- Settles O44: the adjustments see the slot alone, which is the address mod 32. -/
theorem paletteAccessesAreAdjusted : Obligations.PaletteAccessesAreAdjusted := by
  intro s a v p ha hp
  have slot : ppuAddress a % 0x20 = p := (palette_slot a).trans hp.symm
  rw [ppuMemRead_palette s ha, ppuMemWrite_palette v s ha]
  simp only [palReadIndex, palWriteIndex, palReadBackground, slot, List.mem_cons, List.not_mem_nil, or_false]
  refine ⟨?_, ?_, ?_, ?_, rfl⟩
  · rintro (rfl | rfl | rfl) <;> rfl
  · rintro (rfl | rfl | rfl | rfl) chain <;> rw [chain] <;> rfl
  · rintro (rfl | rfl | rfl | rfl) chain <;> rw [chain] <;> rfl
  · intro other
    simp only [not_or] at other
    simp [other]

end Sys2Proof.Machine
end

section
/-! PROOFS. What an instruction does on the bus: the faults it can record, where a faulting read leaves it, and the accesses by
which it reaches the PPU. -/

namespace Sys2Proof.Machine

/-! ## The faults no step records -/

/-- The record, if there is one, is a fault a program can raise (20_memory.md R110, 40_addressing_modes.md R187). -/
def State.RecordsReachable (s : State) : Prop :=
  (∀ m c, s.fault ≠ some (.operandCapability m c)) ∧ ∀ n, s.fault ≠ some (.oamTransferSize n)

/-- The record is a field of the CPU. -/
theorem State.RecordsReachable.of_macroState {s t : State} (hs : s.RecordsReachable)
    (h : t.cpu.macroState = s.cpu.macroState) : t.RecordsReachable := by
  have hf : t.fault = s.fault := by rw [State.fault, h, State.fault]
  rwa [State.RecordsReachable, hf]

theorem State.RecordsReachable.of_fault_none {s : State} (h : s.fault = none) : s.RecordsReachable := by
  simp [State.RecordsReachable, h]

theorem StoppedFrom.recordsReachable {s t : State} (h : StoppedFrom s t) : t.RecordsReachable := by
  obtain ⟨f, hf, hsize, hcap⟩ := h
  simp [State.RecordsReachable, State.fault, hf, hsize, hcap]

theorem recordsReachable_busClosed : BusClosed fun s t => s.RecordsReachable → t.RecordsReachable where
  refl _ := id
  trans h k := k ∘ h
  cpu _ hc hs := hs.of_macroState hc
  read h hs := hs.of_macroState (by rw [(busRead_ok h).1])
  readStop h _ := (busRead_stoppedFrom h).1.recordsReachable
  write h hs := hs.of_macroState (by rw [(busWrite_ok h).1])
  writeStop h _ := (busWrite_stopped h).1.recordsReachable

/-- The end of a step leaves the CPU as it is, the record included. -/
theorem endStep_cpu (c : Nat) (s : State) : (endStep c s).cpu = s.cpu := by
  rw [endStep_eq]
  split_ifs
  · exact (run_sameCpuSide (s.setPublished []) (c * s.params.ppuRatio)).cpu
  · rfl

theorem State.RecordsReachable.endStep {s : State} (c : Nat) (hs : s.RecordsReachable) : (endStep c s).RecordsReachable :=
  hs.of_macroState (by rw [endStep_cpu])

/-- Settles O9: a step begins without a record, and each bus access that stops a fetch or an instruction records another
fault. -/
theorem noStepRecordsAnUnreachableFault : Obligations.NoStepRecordsAnUnreachableFault := by
  intro s t h
  obtain ⟨hfetch, hfault⟩ := fetchInstr_within recordsReachable_busClosed
    (fun _ _ _ _ => by simp [State.RecordsReachable]) s
  obtain ⟨hs, ⟨-, u, hu, rfl⟩ | ⟨-, u, hu, rfl⟩ | ⟨-, i, u, w, hu, hw, rfl⟩⟩ := step_cases h
  case inl =>
    rw [nmiEntry_eq] at hu
    cases hu
    exact (State.RecordsReachable.of_fault_none rfl).endStep 7
  case inr.inl => exact (hfault u hu (.of_fault_none hs)).endStep 0
  case inr.inr => exact (exec_within recordsReachable_busClosed hw (hfetch i u hu (.of_fault_none hs))).endStep _

/-! ## A read that faults -/

/-- A bus read stops in two regions only: in the window with the register of the address, in the unmapped region with the address
(20_memory.md R86, R88). -/
theorem busRead_stopped_region {a : Addr} {s t : State} (h : busRead a s = .stopped t) :
    ∃ f, t = Spec.faulted s f ∧
      (0x2000 ≤ a.toNat ∧ a.toNat < 0x4000 ∧ f = .ppuRegisterUndefined (ppuRegAt a) .read ∨
        0x4000 ≤ a.toNat ∧ a.toNat < 0x8000 ∧ f = .busUnmapped a .read) := by
  by_cases hheld : a.toNat < 0x2000 ∨ 0x8000 ≤ a.toNat
  · obtain ⟨b, hb⟩ := peek_eq_some s hheld
    rw [busRead_of_peek hb] at h
    cases h
  by_cases hw : a.toNat < 0x4000
  · rw [busRead_window s (by omega) hw] at h
    exact ⟨_, ppuRegRead_stopped h, .inl ⟨by omega, hw, rfl⟩⟩
  · rw [busRead_unmapped s (by omega) (by omega), ioRead] at h
    split at h
    · cases h
      exact ⟨_, rfl, .inr ⟨by omega, by omega, rfl⟩⟩
    · cases h

/-- An instruction that asks only for a value goes on with nothing else. -/
theorem valueReader_operation {m : Mnemonic} (hm : m ∈ Spec.valueReaders) (o : Operand) (s : State) :
    ∃ k : Byte → State → Res Unit, operation m o s = (operandValue o s).bind k := by
  cases m
  case LDA | LDX | LDY | ADC | SBC | AND | ORA | EOR | CMP | CPX | CPY | BIT => exact ⟨_, rfl⟩
  all_goals exact absurd hm (by decide)

theorem valueReader_hasValue {i : Instr} (hm : i.mnemonic ∈ Spec.valueReaders) : modeHasValue i.operand.mode = true := by
  have table : ∀ m ∈ Spec.valueReaders, ∀ d ∈ m.modes, modeHasValue d = true := by decide
  exact table _ hm _ (mode_mem_modes i)

/-- Settles O16: the value is the first thing such an instruction asks for, and only the one read of its address can fault. -/
theorem aFaultingReadEndsTheInstruction : Obligations.AFaultingReadEndsTheInstruction := by
  intro i s u hm hu
  obtain ⟨k, hk⟩ := valueReader_operation hm i.operand s
  obtain ⟨a, ha, hread⟩ := operandValue_stopped (valueReader_hasValue hm) hu
  obtain ⟨f, hf, region⟩ := busRead_stopped_region hread
  refine ⟨?_, a, f, operandAddr_eq_of_storeAddr ha, hf, region⟩
  rw [exec_eq_operation, hk, hu]
  rfl

/-! ## Where an instruction reaches the PPU -/

/-- No bus access and no register write touches the engine's side (60_exceptions.md R478, R479). -/
theorem sameEngine_busClosed : BusClosed SameEngine where
  refl := .refl
  trans := .trans
  cpu h _ := by rw [h]; exact ⟨rfl, rfl, rfl, rfl, rfl, rfl⟩
  read h := by
    obtain ⟨-, -, -, he⟩ := busRead_ok h
    exact he
  readStop h := by
    obtain ⟨-, -, -, he⟩ := busRead_stoppedFrom h
    exact he
  write h := by
    obtain ⟨-, he, -⟩ := busWrite_ok h
    exact he
  writeStop h := by
    obtain ⟨-, -, -, he⟩ := busWrite_stopped h
    exact he

/-- A view of the state that sees neither the CPU nor RAM. -/
def CpuBlind {α : Type} (view : State → α) : Prop := ∀ s c r, view { s with cpu := c, ram := r } = view s

/-- The view is the same in both states. -/
def SameView {α : Type} (view : State → α) (s t : State) : Prop := view t = view s

section
variable {α β γ : Type} {view : State → α}

theorem SameView.refl (s : State) : SameView view s s := Eq.refl (view s)

theorem sameView_bind {s : State} {r : Res β} {k : β → State → Res γ} (h : r.Within (SameView view) s)
    (hk : ∀ b t, r = .ok b t → (k b t).Within (SameView view) t) : (r.bind k).Within (SameView view) s := by
  cases r with
  | ok b t =>
    obtain ⟨hok, hstop⟩ := hk b t rfl
    have first : view t = view s := h.1 b t rfl
    exact ⟨fun c u hu => (hok c u hu).trans first, fun u hu => (hstop u hu).trans first⟩
  | stopped t => exact ⟨fun _ _ hu => (by cases hu), fun u hu => h.2 u (by cases hu; rfl)⟩

/-- A write outside the window, but for 0x4014, stores in RAM, records a fault, or does nothing, so that a view blind to the CPU
and RAM stays the same. -/
theorem busWrite_outside_sameView (hb : CpuBlind view) {a : Addr} (h : a.toNat < 0x2000 ∨ 0x4000 ≤ a.toNat)
    (hd : a ≠ Config.dmaPort) (v : Byte) (s : State) : (busWrite a v s).Within (SameView view) s := by
  have recorded (f : Fault) : (raise f s : Res Unit).Within (SameView view) s :=
    ⟨fun _ u hu => absurd hu (raise_ne_ok s f _ u), fun u hu => by cases hu; exact hb s _ _⟩
  by_cases hram : a.toNat < 0x2000
  · rw [busWrite_ram v s hram]
    exact Res.within_ok (hb s _ _)
  by_cases hio : a.toNat < 0x8000
  · rw [busWrite_unmapped v s (by omega) hio hd, ioWrite]
    split
    · exact recorded _
    · exact Res.within_ok (.refl s)
  · rw [busWrite_prg v s (by omega), romWrite]
    split
    · exact Res.within_ok (.refl s)
    · exact recorded _

/-- RAM and PRG-ROM are read without a change to any view. -/
theorem busRead_held_sameView {a : Addr} (h : a.toNat < 0x2000 ∨ 0x8000 ≤ a.toNat) (s : State) :
    (busRead a s).Within (SameView view) s := by
  obtain ⟨b, hb⟩ := peek_eq_some s h
  rw [busRead_of_peek hb]
  exact Res.within_ok (.refl s)

/-- A mode other than Indirect finds its address without a change to any view. -/
theorem operandAddr_sameView {o : Operand} (s : State) (ha : modeHasAddress o.mode = true) (hi : o.mode ≠ .ind) :
    (operandAddr o s).Within (SameView view) s :=
  ⟨fun a t h => by rw [(operandAddr_ok hi h).1]; exact .refl s, fun _ h => absurd h (operandAddr_ne_stopped ha hi)⟩

/-- Reading an operand's value keeps what the one read of its address keeps. -/
theorem operandValue_sameView {o : Operand} {s : State} (hv : modeHasValue o.mode = true)
    (hread : ∀ a u, operandAddr o s = .ok a u → (busRead a u).Within (SameView view) u) :
    (operandValue o s).Within (SameView view) s := by
  by_cases ha : modeHasAddress o.mode = true ∧ o.mode ≠ .ind
  · rw [operandValue_eq_read s ha.1 ha.2]
    exact sameView_bind (operandAddr_sameView s ha.1 ha.2) hread
  · cases o <;> simp [Operand.mode, modeHasAddress, modeHasValue] at ha hv <;> exact Res.within_ok (.refl s)

/-- A read-modify-write of memory keeps what its read, its write and its continuation keep. -/
theorem readModifyWrite_sameView {o : Operand} {s : State} {f : Byte → Byte} {k : Byte → State → Res Unit}
    (ha : modeHasAddress o.mode = true) (hi : o.mode ≠ .ind)
    (hread : ∀ a u, operandAddr o s = .ok a u → (busRead a u).Within (SameView view) u)
    (hwrite : ∀ a u, operandAddr o s = .ok a u → ∀ v w, (busWrite a v w).Within (SameView view) w)
    (hk : ∀ m t, (k m t).Within (SameView view) t) : (readModifyWrite o f k s).Within (SameView view) s := by
  rcases h : operandAddr o s with ⟨a, u⟩ | u
  · obtain ⟨rfl, -⟩ := operandAddr_ok hi h
    rw [readModifyWrite_mem f k h]
    exact sameView_bind (hread a u h) fun m w _ => sameView_bind (hwrite a u h _ w) fun _ _ _ => hk m _
  · exact absurd h (operandAddr_ne_stopped ha hi)

/-- An instruction keeps every view, blind to the CPU and RAM, that is kept by finding its operand's address, by a read of that
address and, if it writes to its operand, by a write of it. JSR reads nothing through its operand. -/
theorem operation_sameView (hb : CpuBlind view) {m : Mnemonic} {o : Operand} {s : State} (hm : o.mode ∈ m.modes)
    (haddr : modeHasAddress o.mode = true → (operandAddr o s).Within (SameView view) s)
    (hread : m ≠ .JSR → ∀ a u, operandAddr o s = .ok a u → (busRead a u).Within (SameView view) u)
    (hwrite : m ∈ Spec.operandWriters → ∀ a u, operandAddr o s = .ok a u →
      ∀ v w, (busWrite a v w).Within (SameView view) w) :
    (operation m o s).Within (SameView view) s := by
  have cpu {u : State} {c : Cpu} {r : Memory} : (Res.ok () { u with cpu := c, ram := r }).Within (SameView view) u :=
    Res.within_ok (hb u c r)
  cases m
  case LDA | LDX | LDY | ADC | SBC | AND | ORA | EOR | CMP | CPX | CPY | BIT =>
    have hv := (by decide : ∀ d ∈ Mnemonic.modes _, modeHasValue d = true) _ hm
    exact sameView_bind (operandValue_sameView hv (hread (by decide))) fun _ _ _ => cpu
  case STA | STX | STY =>
    have ha := (by decide : ∀ d ∈ Mnemonic.modes _, modeHasAddress d = true) _ hm
    exact sameView_bind (haddr ha) fun a u h => hwrite (by decide) a u h _ _
  case INC | DEC | ASL | LSR | ROL | ROR =>
    simp only [operation, shift, stepMemory]
    rcases operandWriters_mode (by decide) hm with rfl | ⟨ha, hi⟩
    · exact cpu
    · exact readModifyWrite_sameView ha hi (hread (by decide)) (hwrite (by decide)) fun _ _ => cpu
  case BCC | BCS | BEQ | BNE | BMI | BPL | BVC | BVS =>
    obtain ⟨r, rfl⟩ := eq_rel_of_mode (List.mem_singleton.mp hm)
    simp only [operation, branch]
    split <;> exact cpu
  case JMP =>
    have ha := (by decide : ∀ d ∈ Mnemonic.modes _, modeHasAddress d = true) _ hm
    exact sameView_bind (haddr ha) fun _ _ _ => cpu
  case JSR =>
    obtain ⟨a, rfl⟩ := eq_abs_of_mode (List.mem_singleton.mp hm)
    rw [operation, jumpSubroutine_abs]
    exact cpu
  case BRK =>
    rw [operation, enterInterrupt_eq _ _ _ (by decide) (by decide)]
    exact cpu
  case RTI =>
    rw [operation, returnFromInterrupt_eq]
    exact cpu
  case RTS | PHA | PHP | PLA | PLP =>
    simp only [operation, returnSubroutine, pullA, pullP, push_eq, pull_eq, pull16_eq, Res.bind_ok]
    exact cpu
  all_goals exact cpu

/-- What an instruction leaves, by the accesses it makes through its operand. -/
theorem exec_sameView (hb : CpuBlind view) {i : Instr} {s t : State} (h : exec i s = .next t)
    (haddr : modeHasAddress i.operand.mode = true → (operandAddr i.operand s).Within (SameView view) s)
    (hread : i.mnemonic ≠ .JSR → ∀ a u, operandAddr i.operand s = .ok a u → (busRead a u).Within (SameView view) u)
    (hwrite : i.mnemonic ∈ Spec.operandWriters → ∀ a u, operandAddr i.operand s = .ok a u →
      ∀ v w, (busWrite a v w).Within (SameView view) w) : view t = view s := by
  obtain ⟨hok, hstop⟩ := operation_sameView hb (mode_mem_modes i) haddr hread hwrite
  rcases exec_leadsTo h with h | h
  · exact hok _ _ h
  · exact hstop _ h

/-- The same for an operand whose address is known. -/
theorem exec_sameView_at (hb : CpuBlind view) {i : Instr} {s t u : State} {a : Addr} (h : exec i s = .next t)
    (hi : i.operand.mode ≠ .ind) (ha : operandAddr i.operand s = .ok a u)
    (hread : ∀ s, (busRead a s).Within (SameView view) s) (hwrite : ∀ v s, (busWrite a v s).Within (SameView view) s) :
    view t = view s := by
  have only {b : Addr} {w : State} (hb : operandAddr i.operand s = .ok b w) : b = a := by
    rw [ha] at hb
    cases hb
    rfl
  refine exec_sameView hb h (fun hm => operandAddr_sameView s hm hi) (fun _ b w hw => ?_) fun _ b w hw => ?_
  · exact only hw ▸ hread w
  · exact only hw ▸ hwrite

end

/-- Only a mode with an address finds one. -/
theorem modeHasAddress_of_ok {o : Operand} {s t : State} {a : Addr} (h : operandAddr o s = .ok a t) :
    modeHasAddress o.mode = true := by
  cases o
  case imp | acc | imm | rel => exact absurd h (raise_ne_ok _ _ _ _)
  all_goals rfl

/-- An instruction whose operand has no address, and JSR, keep every view blind to the CPU and RAM. -/
theorem exec_sameView_of_noAccess {α : Type} {view : State → α} (hb : CpuBlind view) {i : Instr} {s t : State}
    (h : exec i s = .next t) (hm : i.operand.mode ∈ [Mode.imp, .acc, .imm, .rel] ∨ i.mnemonic = .JSR) : view t = view s := by
  rcases hm with hm | hm
  · have noAddr : modeHasAddress i.operand.mode ≠ true :=
      (by decide : ∀ d ∈ [Mode.imp, .acc, .imm, .rel], modeHasAddress d ≠ true) _ hm
    have never {a : Addr} {u : State} (ha : operandAddr i.operand s = .ok a u) : False := noAddr (modeHasAddress_of_ok ha)
    exact exec_sameView hb h (absurd · noAddr) (fun _ _ _ ha => (never ha).elim) fun _ _ _ ha => (never ha).elim
  · have modes := mode_mem_modes i
    rw [hm] at modes
    have abs : i.operand.mode = .abs := List.mem_singleton.mp modes
    have notWriter : i.mnemonic ∉ Spec.operandWriters := by rw [hm]; decide
    exact exec_sameView hb h (fun ha => operandAddr_sameView s ha (by simp [abs])) (absurd hm) (absurd · notWriter)

/-- No bus read changes PPU memory (20_memory.md R92). -/
theorem busRead_vmem (a : Addr) (s : State) : (busRead a s).Within (SameView State.vmem) s := by
  refine ⟨fun _ _ h => ?_, fun _ h => ?_⟩
  · obtain ⟨-, -, hvmem, -⟩ := busRead_ok h
    exact hvmem
  · obtain ⟨-, -, hvmem, -⟩ := busRead_stoppedFrom h
    exact hvmem

/-- Finding an address changes no PPU memory, Indirect pointers included. -/
theorem operandAddr_vmem {o : Operand} (s : State) (ha : modeHasAddress o.mode = true) :
    (operandAddr o s).Within (SameView State.vmem) s := by
  refine ⟨fun _ _ h => ?_, fun _ h => ?_⟩
  · obtain ⟨-, -, hvmem, -⟩ := operandAddr_ok_frame h
    exact hvmem
  · obtain ⟨-, -, hvmem, -⟩ := operandAddr_stopped_frame ha h
    exact hvmem

/-- A bus read outside the window leaves the PPU's registers. -/
theorem busRead_outside_ppu {a : Addr} (h : a.toNat < 0x2000 ∨ 0x4000 ≤ a.toNat) (s : State) :
    (busRead a s).Within (SameView State.ppu) s := by
  refine ⟨fun v t ht => (busRead_outside h ht).1, fun t ht => ?_⟩
  obtain ⟨f, rfl, -⟩ := busRead_stopped ht
  rfl

/-- Settles O38: the engine's side by the induction over all instructions, the rest by the accesses an instruction makes through
its operand, each of which keeps what the clause speaks of. -/
theorem instructionsReachThePpuOnlyThroughTheBus : Obligations.InstructionsReachThePpuOnlyThroughTheBus := by
  intro i s t h
  have ppu : CpuBlind State.ppu := fun _ _ _ => rfl
  have vmem : CpuBlind State.vmem := fun _ _ _ => rfl
  have draws : CpuBlind State.draws := fun _ _ _ => rfl
  obtain ⟨nmi, scan, rend, params, report, published⟩ := exec_within sameEngine_busClosed h
  refine ⟨⟨scan, rend, nmi, params, report, published⟩, fun hw => ?_, fun hm => ?_,
    fun a u hi ha => ⟨fun hr => ?_, fun hr => ?_⟩⟩
  · exact exec_sameView vmem h (operandAddr_vmem s) (fun _ a u _ => busRead_vmem a u) (absurd · hw)
  · have same {α : Type} {view : State → α} (hb : CpuBlind view) : view t = view s := exec_sameView_of_noAccess hb h hm
    exact ⟨same ppu, same vmem, same draws⟩
  · have outside : a.toNat < 0x2000 ∨ 0x4000 ≤ a.toNat := hr.imp_right And.left
    have notDma : a ≠ Config.dmaPort := by
      rintro rfl
      exact absurd hr (by decide)
    exact ⟨exec_sameView_at ppu h hi ha (busRead_outside_ppu outside) (busWrite_outside_sameView ppu outside notDma),
      exec_sameView_at vmem h hi ha (busRead_vmem a) (busWrite_outside_sameView vmem outside notDma)⟩
  · have notDma : a ≠ Config.dmaPort := by
      rintro rfl
      exact absurd hr (by decide)
    exact exec_sameView_at draws h hi ha (busRead_held_sameView hr) (busWrite_outside_sameView draws (by omega) notDma)

end Sys2Proof.Machine
end

section
/-! PROOFS. The encoding: each row of the opcode map against the encoder, decode of encode and its converse, the well-formed
terms, and the undefined opcodes. -/

namespace Sys2Proof

/-! ## The rows of the opcode map, against the encoder -/

/-- The operand bytes a form takes from an operand word: none, its low byte, or both (30_encoding.md R142). -/
def OpForm.bytes : OpForm → Addr → List Byte
  | .zero _, _ => []
  | .one _, w => [lowByte w]
  | .two _, w => [lowByte w, highByte w]

/-- The instruction a form makes of an operand word. -/
def OpForm.instr : OpForm → Addr → Instr
  | .zero i, _ => i
  | .one f, w => f (lowByte w)
  | .two f, w => f w

/-- The form of a row gives what it makes of an operand word. -/
theorem OpForm.Gives.exists_word {form : OpForm} {bs : List Byte} {i : Instr} (h : form.Gives bs i) :
    ∃ w, form.bytes w = bs ∧ form.instr w = i := by
  cases form with
  | zero j =>
    obtain ⟨rfl, rfl⟩ := h
    exact ⟨0, rfl, rfl⟩
  | one f =>
    obtain ⟨b, rfl, rfl⟩ := h
    exact ⟨word b 0, by simp [OpForm.bytes, OpForm.instr]⟩
  | two f =>
    obtain ⟨lo, hi, rfl, rfl⟩ := h
    exact ⟨word lo hi, by simp [OpForm.bytes, OpForm.instr]⟩

/-- The operand of a mode with an operand word (40_addressing_modes.md R170). -/
def Mode.operand : Mode → Addr → Operand
  | .imp, _ => .imp
  | .acc, _ => .acc
  | .imm, w => .imm (lowByte w)
  | .zp, w => .zp (lowByte w)
  | .zpx, w => .zpx (lowByte w)
  | .zpy, w => .zpy (lowByte w)
  | .abs, w => .abs w
  | .absx, w => .absx w
  | .absy, w => .absy w
  | .ind, w => .ind w
  | .indx, w => .indx (lowByte w)
  | .indy, w => .indy (lowByte w)
  | .rel, w => .rel (lowByte w)

/-- Every operand is that of its mode with some word. -/
theorem Mode.exists_operand_eq (o : Operand) : ∃ w, o.mode.operand w = o := by
  cases o with
  | imp | acc => exact ⟨0, rfl⟩
  | imm b | zp b | zpx b | zpy b | indx b | indy b | rel b => exact ⟨word b 0, by simp [Operand.mode, Mode.operand]⟩
  | abs a | absx a | absy a | ind a => exact ⟨a, rfl⟩

/-- What a row builds from an operand word: the bytes that encode it, and its term. -/
def OpcodeRow.built (row : OpcodeRow) (w : Addr) : List Byte × RawInstr :=
  (encode (row.form.instr w), (row.form.instr w).raw)

/-- The bytes and the term the row lists for an operand word. -/
def OpcodeRow.listed (row : OpcodeRow) (w : Addr) : List Byte × RawInstr :=
  (row.opcode :: row.form.bytes w, ⟨row.mnemonic, row.mode.operand w⟩)

/-- Every row builds what it lists: both sides computed along the table, as functions of the operand word. -/
theorem built_eq_listed {row : OpcodeRow} (h : row ∈ opcodeTable) : row.built = row.listed := by
  have same : opcodeTable.map OpcodeRow.built = opcodeTable.map OpcodeRow.listed := rfl
  exact List.map_inj_left.mp same row h

/-- What a row builds is encoded with the row's opcode and the operand bytes it was built from. -/
theorem encode_instr {row : OpcodeRow} (h : row ∈ opcodeTable) (w : Addr) :
    encode (row.form.instr w) = row.opcode :: row.form.bytes w := congrArg Prod.fst (congrFun (built_eq_listed h) w)

/-- What a row builds has the row's mnemonic, and the operand of its mode. -/
theorem raw_instr {row : OpcodeRow} (h : row ∈ opcodeTable) (w : Addr) :
    (row.form.instr w).raw = ⟨row.mnemonic, row.mode.operand w⟩ := congrArg Prod.snd (congrFun (built_eq_listed h) w)

/-- The row an opcode byte selects is in the table under that byte. -/
theorem opcodeRow_eq_some {op : Byte} {row : OpcodeRow} (h : opcodeRow op = some row) : row ∈ opcodeTable ∧ row.opcode = op :=
  ⟨List.mem_of_find?_eq_some h, by simpa using List.find?_some h⟩

/-! ## Decoding -/

/-- Bytes decode exactly when the first selects a row whose form gives the instruction of the next; the rest is left. -/
theorem decode_cons_eq_ok_iff {op : Byte} {bs rest : List Byte} {i : Instr} :
    decode (op :: bs) = .ok i rest ↔
      ∃ row, opcodeRow op = some row ∧ ∃ used, row.form.Gives used i ∧ bs = used ++ rest := by
  rw [decode]
  cases opcodeRow op with
  | none => simp
  | some row =>
    simp only [Option.some.injEq, exists_eq_left']
    generalize row.form = form
    cases form with
    | zero j => simp [OpForm.Gives]
    | one f => rcases bs with _ | ⟨b, bs⟩ <;> simp [OpForm.Gives]
    | two f => rcases bs with _ | ⟨lo, _ | ⟨hi, bs⟩⟩ <;> simp [OpForm.Gives]

/-- A byte is rejected by name exactly when it selects no row, whatever follows. -/
theorem decode_cons_eq_illegalOpcode_iff {op : Byte} {bs : List Byte} :
    decode (op :: bs) = .illegalOpcode op ↔ opcodeRow op = none := by
  rw [decode]
  cases opcodeRow op with
  | none => simp
  | some row =>
    simp only [reduceCtorEq, iff_false]
    split
    · simp
    · split <;> simp
    · split <;> simp

/-- Settles O1: the opcode of an instruction selects a row whose form gives the instruction back from its operand bytes. -/
theorem decodeOfEncodeIsTheInstruction : Obligations.DecodeOfEncodeIsTheInstruction := by
  intro i rest
  obtain ⟨row, hrow, hgives⟩ := opcodeRow_gives i
  exact decode_cons_eq_ok_iff.mpr ⟨row, hrow, _, hgives, rfl⟩

/-- Settles O2: the row that decoded the bytes builds an instruction encoded with the opcode and the operand bytes read. -/
theorem encodeOfDecodedIsTheBytesRead : Obligations.EncodeOfDecodedIsTheBytesRead := by
  intro bytes rest i h
  cases bytes with
  | nil => cases h
  | cons op bs =>
    obtain ⟨row, hrow, used, hgives, rfl⟩ := decode_cons_eq_ok_iff.mp h
    obtain ⟨w, rfl, rfl⟩ := hgives.exists_word
    obtain ⟨hmem, rfl⟩ := opcodeRow_eq_some hrow
    rw [encode_instr hmem, List.cons_append]

/-- Settles O3: each word is the encoding of its instruction, so O1 decodes it. -/
theorem sampleWordsDecode : Obligations.SampleWordsDecode :=
  have decodes := decodeOfEncodeIsTheInstruction
  ⟨decodes (.ldaImm 0x80) [], decodes (.stxZpy 0xF8) [], decodes (.adcIndx 0x20) [], decodes (.incAbsx 0x1234) [],
    decodes .rorAcc [], decodes (.jmpInd 0x02FF) [], decodes (.bne 0xFE) [0x00], decodes .php [], decodes .brk []⟩

/-! ## The well-formed terms -/

/-- Every pair of a mnemonic and one of its modes has a row in the opcode map (30_encoding.md R144, R145). -/
theorem exists_row_of_mode {m : Mnemonic} {d : Mode} (h : d ∈ m.modes) :
    ∃ row ∈ opcodeTable, row.mnemonic = m ∧ row.mode = d := by
  have listed : (m, d) ∈ opcodeTable.map fun row => (row.mnemonic, row.mode) := by
    revert d
    cases m <;> decide
  simpa using listed

/-- Settles O4: the opcode map has a row for the pair, which builds the instruction; and an instruction's mode is among its
mnemonic's. -/
theorem wellFormedTermsAreTheInstructions : Obligations.WellFormedTermsAreTheInstructions := by
  rintro ⟨m, o⟩
  constructor
  · intro h
    obtain ⟨row, hmem, rfl, hmode⟩ := exists_row_of_mode (of_decide_eq_true h)
    obtain ⟨w, hw⟩ := Mode.exists_operand_eq o
    exact ⟨row.form.instr w, by rw [raw_instr hmem, hmode, hw]⟩
  · rintro ⟨i, hi⟩
    rw [← hi]
    exact decide_eq_true (Machine.mode_mem_modes i)

end Sys2Proof

namespace Sys2Proof.Machine

/-! ## The undefined opcodes -/

/-- The list of R146 is that of the bytes under which the opcode map has no row, in order. -/
theorem undefinedOpcodes_eq_filter :
    (List.range 256).filter (fun n => decide (n ∉ opcodeTable.map (·.opcode.toNat))) =
      Spec.undefinedOpcodes.map BitVec.toNat := by decide

/-- A byte selects no row exactly when it is one of the 105 (30_encoding.md R143, R146). -/
theorem opcodeRow_eq_none_iff (op : Byte) : opcodeRow op = none ↔ op ∈ Spec.undefinedOpcodes := by
  have hmap : op ∈ Spec.undefinedOpcodes ↔ op.toNat ∈ Spec.undefinedOpcodes.map BitVec.toNat :=
    (List.mem_map_of_injective fun _ _ => BitVec.eq_of_toNat_eq).symm
  rw [hmap, ← undefinedOpcodes_eq_filter, List.mem_filter]
  simp [opcodeRow, op.isLt, BitVec.toNat_inj]

/-- An opcode fetch of an undefined byte faults with PC past that byte (30_encoding.md R146). -/
theorem fetchInstr_undefined {s t : State} {op : Byte} (h : busRead s.cpu.pc s = .ok op t) (hop : opcodeRow op = none) :
    fetchInstr s = .stopped (Spec.faulted (t.setPc (s.cpu.pc + 1)) (.illegalOpcode op s.cpu.pc)) := by
  obtain ⟨hcpu, -⟩ := busRead_ok h
  rw [fetchInstr, fetchByte, h, Res.bind_ok, Res.bind_ok, hop, hcpu]
  rfl

/-- A step whose fetch faults ends there, at no cost (60_exceptions.md R453). -/
theorem step_of_fetch_stopped {s t : State} (hf : s.fault = none) (hn : s.nmiPending = false) (h : fetchInstr s = .stopped t) :
    step s = .next (endStep 0 t) := by
  simp [step, hf, systemStep, hn, fetchStep, h]

/-- Settles O6: the decoder and the fetch reject the bytes that select no row, which are those of the list. -/
theorem undefinedOpcodesFaultAtFetch : Obligations.UndefinedOpcodesFaultAtFetch := by
  refine ⟨fun op rest => decode_cons_eq_illegalOpcode_iff.trans (opcodeRow_eq_none_iff op),
    fun s op hf hn hop => ⟨fun t ht => ?_, busRead_of_peek⟩⟩
  have hfetch := fetchInstr_undefined ht ((opcodeRow_eq_none_iff op).mpr hop)
  rw [step_of_fetch_stopped hf hn hfetch, endStep_eq]
  rfl

end Sys2Proof.Machine
end

section
/-! PROOFS. Operands and what turns on them: the address and the value of each mode (40_addressing_modes.md R170 to R184), the
target of JMP, and the cost of an instruction (70_reset_and_hazards.md R520, R521). -/

namespace Sys2Proof.Machine

/-! ## The address of a mode as a number -/

/-- An index register is added with 16-bit wrap (40_addressing_modes.md R180, R181). -/
theorem add_zext16 (a : Addr) (b : Byte) : a + zext16 b = BitVec.ofNat 16 (a.toNat + b.toNat) := by
  rw [zext16_eq_ofNat, BitVec.ofNat_add, BitVec.ofNat_toNat 16 a, BitVec.setWidth_eq]

/-- An index register is added to a zero-page address with wrap in page 0 (40_addressing_modes.md R177, R178). -/
theorem zext16_add (z b : Byte) : zext16 (z + b) = BitVec.ofNat 16 ((z.toNat + b.toNat) % 256) := by
  rw [zext16_eq_ofNat, BitVec.toNat_add]

/-- A pointer in page 0: its low byte, and its high byte at the next address with wrap (40_addressing_modes.md R183, R184). -/
theorem zeroPageWord_toNat (s : State) (z : Byte) :
    (zeroPageWord s z).toNat = (s.ram.read z.toNat).toNat + 256 * (s.ram.read ((z.toNat + 1) % 256)).toNat := by
  rw [zeroPageWord, word_toNat, BitVec.toNat_add]
  rfl

/-- Settles O13: the model's address without a bus access is the operand's, and each wrap is that of a byte or of an address. -/
theorem operandAddressesOfTheModes : Obligations.OperandAddressesOfTheModes := by
  intro s z a
  have addr {o : Operand} {b c : Addr} (h : storeAddr o s = some b) (hb : b = c) : operandAddr o s = .ok c s :=
    hb ▸ operandAddr_eq_of_storeAddr h
  refine ⟨addr rfl (zext16_eq_ofNat z), addr rfl (zext16_add z _), addr rfl (zext16_add z _), addr rfl rfl,
    addr rfl (add_zext16 a _), addr rfl (add_zext16 a _), addr rfl ?indx, addr rfl ?indy⟩
  case indx =>
    rw [← BitVec.setWidth_eq (zeroPageWord s _), ← BitVec.ofNat_toNat, zeroPageWord_toNat, BitVec.toNat_add, Nat.mod_add_mod]
  case indy => rw [add_zext16, zeroPageWord_toNat]

/-! ## The value of a mode -/

/-- Settles O14: a mode with an address and a value is not Indirect, so its value is one read of the address. -/
theorem operandValuesOfTheModes : Obligations.OperandValuesOfTheModes := by
  refine fun s => ⟨rfl, fun _ => rfl, fun o a t hv ha => ?_⟩
  have notInd : o.mode ≠ .ind := by
    intro e
    rw [e] at hv
    cases hv
  have hread : operandValue o s = busRead a t := by
    rw [operandValue_eq_read s (modeHasAddress_of_ok ha) notInd, ha, Res.bind_ok]
  exact ⟨hread, fun _ hp => hread.trans (busRead_of_peek hp)⟩

/-! ## The target of JMP -/

theorem lowByte_add_one (a : Addr) : lowByte (a + 1) = lowByte a + 1 := BitVec.setWidth_add a 1 (by decide)

/-- The page of one address with the low byte of another, by the masks of R182. -/
theorem masks_eq_word (a b : Addr) : (a &&& 0xFF00) ||| (b &&& 0x00FF) = word (lowByte b) (highByte a) := by
  have high : ∀ i < 16, (0xFF00 : Addr).getLsbD i = decide (8 ≤ i) := by decide
  have low : ∀ i < 16, (0x00FF : Addr).getLsbD i = decide (i < 8) := by decide
  refine BitVec.eq_of_getLsbD_eq fun i hi => ?_
  rw [word, BitVec.getLsbD_append, BitVec.getLsbD_or, BitVec.getLsbD_and, BitVec.getLsbD_and, high i hi, low i hi]
  by_cases hlow : i < 8
  · simp [hlow, lowByte, show ¬ 8 ≤ i by omega]
  · simp [hlow, highByte, show 8 ≤ i by omega, show i - 8 < 8 by omega, show 8 + (i - 8) = i by omega]

/-- The second address of an Indirect pointer lies in the page of the first (40_addressing_modes.md R182). -/
theorem samePageNext_eq (a : Addr) : samePageNext a = (a &&& 0xFF00) ||| ((a + 1) &&& 0x00FF) := by
  rw [masks_eq_word, lowByte_add_one, samePageNext]

theorem Res.bind_assoc {α β γ : Type} (r : Res α) (k : α → State → Res β) (l : β → State → Res γ) :
    (r.bind k).bind l = r.bind fun a s => (k a s).bind l := by
  cases r <;> rfl

/-- JMP through a pointer: two reads, and then PC is the word they make (44_control_flow.md R299). -/
theorem exec_jmpInd (a : Addr) (s : State) :
    exec (.jmpInd a) s = finish ((busRead a s).bind fun lo t => (busRead (samePageNext a) t).bind fun hi u =>
      .ok () (u.setPc (word lo hi))) := by
  change finish (jump (.ind a) s) = _
  simp only [jump, operandAddr, Res.bind_assoc, Res.bind_ok]

/-- Settles O27: the two reads go on, or the first or the second of them stops. -/
theorem jmpGoesToItsTarget : Obligations.JmpGoesToItsTarget := by
  rintro s a a' rfl target
  rw [← samePageNext_eq]
  have jumps {lo hi : Byte} {t u : State} (hlo : busRead a s = .ok lo t) (hhi : busRead (samePageNext a) t = .ok hi u) :
      exec (.jmpInd a) s = .next { u with cpu := { u.cpu with pc := target lo hi } } := by
    rw [exec_jmpInd, hlo, Res.bind_ok, hhi, Res.bind_ok, finish_ok, word_eq_ofNat]
    rfl
  refine ⟨rfl, fun _ _ _ _ => jumps, fun t hlo => ?_, fun lo t u hlo hhi => ?_, fun _ _ hlo hhi => ?_⟩
  · rw [exec_jmpInd, hlo, Res.bind_stopped, finish_stopped]
  · rw [exec_jmpInd, hlo, Res.bind_ok, hhi, Res.bind_stopped, finish_stopped]
  · exact jumps (busRead_of_peek hlo) (busRead_of_peek hhi)

/-! ## The inputs of the cost -/

/-- A byte from 0x80 up gains 0xFF00 (00_scope.md R12). -/
theorem sext16_eq_ofNat (r : Byte) : sext16 r = BitVec.ofNat 16 (if r.toNat < 128 then r.toNat else r.toNat + 0xFF00) := by
  have := r.isLt
  apply BitVec.eq_of_toNat_eq
  rw [sext16, BitVec.toNat_signExtend, BitVec.msb_eq_decide, BitVec.toNat_setWidth, BitVec.toNat_ofNat]
  by_cases h : r.toNat < 128
  · simp [h]
  · simp [h, show 128 ≤ r.toNat by omega]
    omega

/-- Whether a sum lies in another page than its base, by numbers (40_addressing_modes.md R186). -/
theorem differentPage_add_ofNat (a : Addr) (n : Nat) :
    differentPage a (a + BitVec.ofNat 16 n) = decide (a.toNat / 256 ≠ (a.toNat + n) % 65536 / 256) := by
  simp [differentPage, ← BitVec.toNat_inj]

/-- The model's page crossing is that of R186. -/
theorem pageCrossed_eq (o : Operand) (s : State) : pageCrossed o s = Spec.crossed s o := by
  cases o with
  | absx a | absy a =>
    rw [pageCrossed, zext16_eq_ofNat, differentPage_add_ofNat]
    rfl
  | indy z =>
    rw [pageCrossed, zext16_eq_ofNat, differentPage_add_ofNat, zeroPageWord_toNat]
    rfl
  | rel r =>
    rw [pageCrossed, sext16_eq_ofNat, differentPage_add_ofNat]
    rfl
  | imp | acc | imm | zp | zpx | zpy | abs | ind | indx => rfl

/-- The model's branch condition is that of R291 to R298. -/
theorem branchTaken_eq (i : Instr) (p : Flags) : branchTaken i p = Spec.taken i p := by
  cases i <;> rfl

theorem writesOperand_iff (m : Mnemonic) : writesOperand m = true ↔ m ∈ Spec.operandWriters := by
  cases m <;> decide

/-! ## The cost -/

/-- Every row of the opcode map costs what the table of R520 says: both sides computed along the map. -/
theorem rowCost_eq {row : OpcodeRow} (h : row ∈ opcodeTable) (crossed taken : Bool) :
    rowCost row crossed taken = Spec.referenceCost row.mnemonic row.mode crossed taken := by
  have same : opcodeTable.map (fun row => rowCost row crossed taken) =
      opcodeTable.map fun row => Spec.referenceCost row.mnemonic row.mode crossed taken := by
    cases crossed <;> cases taken <;> rfl
  exact List.map_inj_left.mp same row h

/-- The reference cost of an instruction is that of its mnemonic and mode (R520). -/
theorem referenceCost_opcode (i : Instr) (crossed taken : Bool) :
    referenceCost i.opcode crossed taken = Spec.referenceCost i.mnemonic i.operand.mode crossed taken := by
  obtain ⟨row, hrow, hm, hd, hcost⟩ := referenceCost_eq i crossed taken
  rw [hcost, rowCost_eq hrow, hm, hd]

/-- An instruction that writes no operand, and a shift of A, runs no OAM DMA (20_memory.md R87). -/
theorem triggersDma_eq_false {i : Instr} (s : State) (h : i.mnemonic ∉ Spec.operandWriters ∨ i.operand = .acc) :
    triggersDma i s = false := by
  rcases h with hm | ho
  · rw [triggersDma, Bool.eq_false_iff.mpr (mt (writesOperand_iff _).mp hm), Bool.false_and]
  · rw [triggersDma, ho]
    exact Bool.and_false _

/-- Settles O57: the inputs of P_COST are those of the rules, each row of the opcode map costs what R520 says, and an operand
writer has the surcharge exactly at 0x4014. -/
theorem branchAndDmaCosts : Obligations.BranchAndDmaCosts := by
  rintro i s p rfl
  rw [← pageCrossed_eq, ← branchTaken_eq]
  refine ⟨fun href => ?_, fun a t hw ha => ?_, fun hn => ?_⟩
  · rw [href]
    exact referenceCost_opcode i _ _
  · rw [cpuCost, triggersDma_of_addr ((writesOperand_iff _).mpr hw) ha]
    simp only [decide_eq_true_eq]
    rfl
  · rw [cpuCost, triggersDma_eq_false s hn]
    rfl

end Sys2Proof.Machine
end

section
/-! PROOFS. Loads, stores and transfers (41_load_store.md R200 to R211): what an instruction does with the value it reads, what a
store writes, and the flags both leave. -/

namespace Sys2Proof.Machine

/-- The model's Z and N are those of R13. -/
theorem flagsZN_eq (v : Byte) (p : Flags) : flagsZN v p = Spec.zn v p := by
  rw [flagsZN, Spec.zn, bit7_eq, decide_eq_decide.mpr (BitVec.toNat_inj (y := 0x00)).symm]
  rfl

/-- A register set to a byte, with Z and N from it, in the terms of R13. -/
theorem State.setZN_eq_zn (s : State) (v : Byte) : s.setZN v = s.setP (Spec.zn v s.cpu.p) := by
  rw [State.setZN_eq, flagsZN_eq]

/-! ## Loads -/

/-- An instruction whose operation reads the operand's value and then only changes the state by `k`. -/
theorem onValue_of_operation {i : Instr} {s : State} {k : Byte → State → State}
    (h : operation i.mnemonic i.operand s = (operandValue i.operand s).bind fun v t => .ok () (k v t)) :
    Spec.onValue i s k := by
  rw [Spec.onValue, exec_eq_operation, h]
  refine ⟨fun m t hread => ?_, fun u hread => ?_⟩
  · rw [hread, Res.bind_ok, finish_ok]
  · rw [hread, Res.bind_stopped, finish_stopped]

theorem load_eq_bind (set : State → Byte → State) (o : Operand) (s : State) :
    load set o s = (operandValue o s).bind fun v t => .ok () ((set t v).setP (Spec.zn v (set t v).cpu.p)) := by
  simp only [load, State.setZN_eq_zn]

/-- Settles O15: the three loads are one operation, on three registers. -/
theorem loadsSetTheRegisterAndZN : Obligations.LoadsSetTheRegisterAndZN := by
  intro i s
  refine ⟨fun hm => ?_, fun hm => ?_, fun hm => ?_⟩
  · exact onValue_of_operation (by rw [hm]; exact load_eq_bind State.setA _ s)
  · exact onValue_of_operation (by rw [hm]; exact load_eq_bind State.setX _ s)
  · exact onValue_of_operation (by rw [hm]; exact load_eq_bind State.setY _ s)

/-! ## Stores -/

theorem store_of_addr {o : Operand} {s t : State} {a : Addr} (v : Byte) (h : operandAddr o s = .ok a t) :
    store v o s = busWrite a v t := by
  rw [store, h, Res.bind_ok]

/-- An instruction that ends as a part of it ends. -/
theorem endsWith_finish (r : Res Unit) : Spec.endsWith r (finish r) := by
  refine ⟨?_, ?_⟩ <;> rintro t rfl <;> rfl

/-- Each of the three store mnemonics stores its own register. -/
theorem exec_eq_store {i : Instr} {s : State} {v : Byte}
    (h : i.mnemonic = .STA ∧ v = s.cpu.a ∨ i.mnemonic = .STX ∧ v = s.cpu.x ∨ i.mnemonic = .STY ∧ v = s.cpu.y) :
    exec i s = finish (store v i.operand s) := by
  rcases h with ⟨hm, rfl⟩ | ⟨hm, rfl⟩ | ⟨hm, rfl⟩ <;> exact exec_of_mnemonic s hm

/-- Settles O17: past its address a store is one bus write, and a bus write to RAM changes one byte. -/
theorem storesWriteTheRegisterOnce : Obligations.StoresWriteTheRegisterOnce := by
  intro i s t a v haddr hreg
  rw [exec_eq_store hreg, store_of_addr v haddr]
  refine ⟨fun hram => ?_, endsWith_finish _⟩
  rw [busWrite_ram v t hram]
  rfl

/-! ## Transfers -/

theorem finish_transfer (set : State → Byte → State) (v : Byte) (s : State) :
    finish (transfer set v s) = .next ((set s v).setP (Spec.zn v (set s v).cpu.p)) := by
  rw [transfer, State.setZN_eq_zn, finish_ok]

/-- Settles O18: five transfers are one operation on a register and a byte, and TXS writes SP alone. -/
theorem transfersCopyTheRegister : Obligations.TransfersCopyTheRegister := fun s =>
  ⟨finish_transfer State.setX s.cpu.a s, finish_transfer State.setY s.cpu.a s, finish_transfer State.setA s.cpu.x s,
    finish_transfer State.setA s.cpu.y s, finish_transfer State.setX s.cpu.sp s, rfl⟩

end Sys2Proof.Machine
end

section
/-! PROOFS. Arithmetic, logic, compares, bit test, increments and decrements (42_arith_logic.md R230 to R245): the model's results
and flags as the formulas of the rules, and with them the whole effect of each instruction. -/

namespace Sys2Proof.Machine

/-! ## Bytes as numbers -/

theorem xor_FF_toNat (m : Byte) : (m ^^^ 0xFF).toNat = 255 - m.toNat := by
  rw [show (0xFF : Byte) = BitVec.allOnes 8 from rfl, BitVec.xor_allOnes, BitVec.toNat_not]

theorem getLsbD_7_xor_FF (m : Byte) : (m ^^^ 0xFF).getLsbD 7 = !m.getLsbD 7 := by
  rw [BitVec.getLsbD_xor]
  exact Bool.xor_true _

theorem sub_eq_ofInt (a m : Byte) : a - m = BitVec.ofInt 8 ((a.toNat : Int) - m.toNat) := by
  apply BitVec.eq_of_toNat_eq
  rw [BitVec.toNat_sub, BitVec.toNat_ofInt]
  omega

theorem add_one_eq_ofNat (v : Byte) : v + 1 = BitVec.ofNat 8 (v.toNat + 1) := by
  rw [BitVec.ofNat_add, BitVec.ofNat_toNat, BitVec.setWidth_eq]
  rfl

/-- One less is 255 more, mod 256 (R241, R244, R245). -/
theorem sub_one_eq_ofNat (v : Byte) : v - 1 = BitVec.ofNat 8 (v.toNat + 255) := by
  rw [BitVec.ofNat_add, BitVec.ofNat_toNat, BitVec.setWidth_eq, BitVec.sub_eq_add_neg]
  rfl

/-! ## Addition and subtraction -/

theorem addSum_eq (a m : Byte) (c : Bool) : addSum a m c = a.toNat + m.toNat + (if c then 1 else 0) := by
  cases c <;> rfl

theorem addResult_eq (a m : Byte) (c : Bool) : addResult a m c = BitVec.ofNat 8 (addSum a m c % 256) := by
  apply BitVec.eq_of_toNat_eq
  rw [addResult, BitVec.toNat_ofNat, BitVec.toNat_ofNat, Nat.mod_mod]

theorem addOverflow_eq (a m : Byte) (c : Bool) :
    addOverflow a m c = decide (a.getLsbD 7 = m.getLsbD 7 ∧ (addResult a m c).getLsbD 7 ≠ m.getLsbD 7) := by
  rw [addOverflow, Bool.decide_and]
  simp [bit, bne, Bool.beq_eq_decide_eq]

/-- The sum with the operand complemented is the difference with borrow, plus 256 (R231). -/
theorem addSum_xor_FF (a m : Byte) (c : Bool) :
    (addSum a (m ^^^ 0xFF) c : Int) = (a.toNat : Int) - m.toNat - (if c then 0 else 1 : Nat) + 256 := by
  have := m.isLt
  rw [addSum_eq, xor_FF_toNat]
  cases c <;> simp <;> omega

theorem addResult_xor_FF (a m : Byte) (c : Bool) :
    addResult a (m ^^^ 0xFF) c = BitVec.ofInt 8 ((a.toNat : Int) - m.toNat - (if c then 0 else 1 : Nat)) := by
  have hsum := addSum_xor_FF a m c
  apply BitVec.eq_of_toNat_eq
  rw [addResult, BitVec.toNat_ofNat, BitVec.toNat_ofInt]
  omega

/-- The carry of the complemented sum is set exactly when nothing is borrowed (R231). -/
theorem addSum_xor_FF_gt_iff (a m : Byte) (c : Bool) :
    addSum a (m ^^^ 0xFF) c > 255 ↔ m.toNat + (if c then 0 else 1) ≤ a.toNat := by
  have hsum := addSum_xor_FF a m c
  omega

/-- V of a subtraction by the rule's second form (R231). -/
theorem addOverflow_xor_FF (a m : Byte) (c : Bool) :
    addOverflow a (m ^^^ 0xFF) c =
      decide (a.getLsbD 7 ≠ m.getLsbD 7 ∧ (addResult a (m ^^^ 0xFF) c).getLsbD 7 ≠ a.getLsbD 7) := by
  have signs : a.getLsbD 7 = !m.getLsbD 7 ↔ a.getLsbD 7 ≠ m.getLsbD 7 := Bool.eq_not
  rw [addOverflow_eq, getLsbD_7_xor_FF, decide_eq_decide, ← signs]
  exact and_congr_right fun h => by rw [h]

/-- An instruction that reads the operand's value and goes on with `f`, which never stops and changes the state by `k`. -/
theorem onValue_of_mnemonic {i : Instr} {mn : Mnemonic} {s : State} {f : Byte → State → Res Unit} {k : Byte → State → State}
    (hm : i.mnemonic = mn) (hop : operation mn i.operand s = (operandValue i.operand s).bind f)
    (hf : ∀ m t, f m t = .ok () (k m t)) : Spec.onValue i s k := by
  refine onValue_of_operation ?_
  rw [hm, hop, funext fun m => funext (hf m)]

/-- Settles O19: the model's sum, carry and overflow are those of R230. -/
theorem adcAddsWithCarry : Obligations.AdcAddsWithCarry := by
  refine fun i s hm => onValue_of_mnemonic hm rfl fun m t => ?_
  rw [addToA, flagsAdd, flagsZN_eq, addOverflow_eq, addResult_eq, addSum_eq]
  rfl

/-- Settles O20: ADC's datapath on the complemented operand gives the difference, the borrow and the second form of V. -/
theorem sbcSubtractsWithBorrow : Obligations.SbcSubtractsWithBorrow := by
  refine fun i s hm => onValue_of_mnemonic hm rfl fun m t => ?_
  rw [addToA, flagsAdd, flagsZN_eq, addOverflow_xor_FF, addResult_xor_FF,
    decide_eq_decide.mpr (addSum_xor_FF_gt_iff _ _ _)]
  rfl

/-! ## Logic, compares and bit test -/

/-- A logic operation's end: A and the flags of R13 from one byte. -/
theorem setA_setZN_eq (v : Byte) (t : State) :
    (t.setA v).setZN v = { t with cpu := { t.cpu with a := v, p := Spec.zn v t.cpu.p } } :=
  State.setZN_eq_zn (t.setA v) v

/-- Settles O21: the three are one operation, with three functions of A and the operand. -/
theorem logicCombinesWithA : Obligations.LogicCombinesWithA := by
  refine fun i s => ⟨fun hm => ?_, fun hm => ?_, fun hm => ?_⟩ <;>
    exact onValue_of_mnemonic hm rfl fun m t => congrArg (Res.ok ()) (setA_setZN_eq _ t)

/-- C of a compare is set exactly when the difference is not negative (R235). -/
theorem flagsCompare_eq (reg m : Byte) (p : Flags) :
    flagsCompare reg m p = Spec.zn (BitVec.ofInt 8 ((reg.toNat : Int) - m.toNat))
      { p with c := decide (0 ≤ (reg.toNat : Int) - m.toNat) } := by
  have carry : m.toNat ≤ reg.toNat ↔ 0 ≤ (reg.toNat : Int) - m.toNat := by omega
  rw [flagsCompare, flagsZN_eq, sub_eq_ofInt, decide_eq_decide.mpr carry]

/-- Settles O22: the three compares are one operation, on three registers, and BIT's flags are the model's own formula. -/
theorem comparesAndBitSetOnlyFlags : Obligations.ComparesAndBitSetOnlyFlags := by
  have compared (reg m : Byte) (t : State) := congrArg (fun p => Res.ok () (t.setP p)) (flagsCompare_eq reg m t.cpu.p)
  refine fun i s => ⟨fun hm => ?_, fun hm => ?_, fun hm => ?_, fun hm => ?_⟩
  · exact onValue_of_mnemonic hm rfl fun m t => compared t.cpu.a m t
  · exact onValue_of_mnemonic hm rfl fun m t => compared t.cpu.x m t
  · exact onValue_of_mnemonic hm rfl fun m t => compared t.cpu.y m t
  · exact onValue_of_mnemonic hm rfl fun _ _ => rfl

/-! ## Increments and decrements -/

/-- INC and DEC, each with its own step of the byte. -/
theorem exec_eq_stepMemory {i : Instr} {f : Byte → Byte} (s : State)
    (h : i.mnemonic = .INC ∧ (∀ m, f m = BitVec.ofNat 8 (m.toNat + 1)) ∨
      i.mnemonic = .DEC ∧ ∀ m, f m = BitVec.ofNat 8 (m.toNat + 255)) :
    exec i s = finish (stepMemory f i.operand s) := by
  rcases h with ⟨hm, hf⟩ | ⟨hm, hf⟩
  · rw [exec_of_mnemonic s hm, funext fun m => (hf m).trans (add_one_eq_ofNat m).symm]
    rfl
  · rw [exec_of_mnemonic s hm, funext fun m => (hf m).trans (sub_one_eq_ofNat m).symm]
    rfl

/-- One read and one write of the address, and then Z and N from the byte written (R240, R241). -/
theorem stepMemory_of_addr {o : Operand} {s t : State} {a : Addr} (f : Byte → Byte) (h : operandAddr o s = .ok a t) :
    stepMemory f o s = (busRead a t).bind fun m u => (busWrite a (f m) u).bind fun _ w =>
      .ok () (w.setP (Spec.zn (f m) w.cpu.p)) := by
  simp only [stepMemory, readModifyWrite_mem _ _ h, State.setZN_eq_zn]

/-- Settles O23: past its address the instruction is a read, a write and the flags; a fault of the read or the write ends it. -/
theorem incDecReadOnceAndWriteOnce : Obligations.IncDecReadOnceAndWriteOnce := by
  intro i s t a haddr f hf
  rw [exec_eq_stepMemory s hf, stepMemory_of_addr f haddr]
  refine ⟨fun m hram hm => ?_, fun m u w hread hwrite => ?_, fun u hread => ?_, fun m u w hread hwrite => ?_⟩
  · subst hm
    rw [busRead_ram t hram, Res.bind_ok, busWrite_ram _ t hram]
    rfl
  · rw [hread, Res.bind_ok, hwrite]
    rfl
  · rw [hread, Res.bind_stopped, finish_stopped]
  · rw [hread, Res.bind_ok, hwrite, Res.bind_stopped, finish_stopped]

theorem finish_stepRegister (set : State → Byte → State) (v : Byte) (s : State) :
    finish (stepRegister set v s) = .next ((set s v).setP (Spec.zn v (set s v).cpu.p)) := by
  rw [stepRegister, State.setZN_eq_zn, finish_ok]

/-- Settles O24: the four are one operation on a register and a byte, which is one more or 255 more mod 256. -/
theorem indexRegistersStepMod256 : Obligations.IndexRegistersStepMod256 := by
  rintro s _ _ _ _ rfl rfl rfl rfl
  simp only [← add_one_eq_ofNat, ← sub_one_eq_ofNat]
  exact ⟨finish_stepRegister State.setX _ s, finish_stepRegister State.setY _ s, finish_stepRegister State.setX _ s,
    finish_stepRegister State.setY _ s⟩

end Sys2Proof.Machine
end

section
/-! PROOFS. Shifts and rotates (43_shift_rotate.md R270 to R274): the model's results and carries as the formulas of the rules, and
with them the whole effect of each instruction. -/

namespace Sys2Proof.Machine

/-! ## Results and carries as numbers -/

/-- The result and the carry out of a shift by the formulas of R271 to R274. -/
def shiftByRule (k : Mnemonic) (m : Byte) (c : Bool) : Byte × Bool :=
  (BitVec.ofNat 8 (Spec.shifted k m.toNat (if c then 1 else 0)), Spec.shiftedOut k m.toNat)

theorem bit0_eq (v : Byte) : bit v 0 = decide (v.toNat % 2 = 1) := by
  rw [bit, BitVec.getLsbD, Nat.testBit_zero]

theorem setWidth_ofBool_toNat (c : Bool) : ((BitVec.ofBool c).setWidth 8).toNat = if c then 1 else 0 := by
  cases c <;> rfl

theorem shiftLeft_one_toNat (m : Byte) : (m <<< 1).toNat = 2 * m.toNat % 256 := by
  rw [BitVec.toNat_shiftLeft, Nat.shiftLeft_eq]
  omega

theorem shiftRight_one_toNat (m : Byte) : (m >>> 1).toNat = m.toNat / 2 := by
  rw [BitVec.toNat_ushiftRight, Nat.shiftRight_eq_div_pow]

/-- Into the low bit a left shift leaves clear, the carry is added (R273). -/
theorem rotateLeft_toNat (m : Byte) (c : Bool) :
    ((m <<< 1) ||| (BitVec.ofBool c).setWidth 8).toNat = (2 * m.toNat + if c then 1 else 0) % 256 := by
  have carry : (if c then 1 else 0) < 2 ^ 1 := by cases c <;> decide
  have low : 2 * m.toNat % 256 = (m.toNat % 128) <<< 1 := by
    rw [Nat.shiftLeft_eq]
    omega
  rw [BitVec.toNat_or, shiftLeft_one_toNat, setWidth_ofBool_toNat, low, ← Nat.shiftLeft_add_eq_or_of_lt carry, ← low]
  omega

/-- Into the high bit a right shift leaves clear, the carry is added (R274). -/
theorem rotateRight_toNat (m : Byte) (c : Bool) :
    ((m >>> 1) ||| ((BitVec.ofBool c).setWidth 8 <<< 7)).toNat = m.toNat / 2 + 128 * if c then 1 else 0 := by
  have half : m.toNat / 2 < 2 ^ 7 := by
    have := m.isLt
    omega
  have high : ((BitVec.ofBool c).setWidth 8 <<< 7).toNat = (if c then 1 else 0) <<< 7 := by cases c <;> rfl
  rw [BitVec.toNat_or, shiftRight_one_toNat, high, Nat.or_comm, ← Nat.shiftLeft_add_eq_or_of_lt half, Nat.shiftLeft_eq]
  omega

theorem shiftAsl_eq : shiftAsl = shiftByRule .ASL := by
  funext m c
  exact Prod.ext (BitVec.toNat_eq_nat.mp (shiftLeft_one_toNat m)).2 (bit7_eq m)

theorem shiftLsr_eq : shiftLsr = shiftByRule .LSR := by
  funext m c
  exact Prod.ext (BitVec.toNat_eq_nat.mp (shiftRight_one_toNat m)).2 (bit0_eq m)

theorem shiftRol_eq : shiftRol = shiftByRule .ROL := by
  funext m c
  exact Prod.ext (BitVec.toNat_eq_nat.mp (rotateLeft_toNat m c)).2 (bit7_eq m)

theorem shiftRor_eq : shiftRor = shiftByRule .ROR := by
  funext m c
  exact Prod.ext (BitVec.toNat_eq_nat.mp (rotateRight_toNat m c)).2 (bit0_eq m)

/-! ## The instructions -/

/-- The four mnemonics are one operation, each with its own rule. -/
theorem operation_eq_shift : ∀ k ∈ Spec.shifts, operation k = shift (shiftByRule k) := by
  simp only [Spec.shifts, List.forall_mem_cons]
  exact ⟨congrArg shift shiftAsl_eq, congrArg shift shiftLsr_eq, congrArg shift shiftRol_eq, congrArg shift shiftRor_eq,
    List.forall_mem_nil _⟩

theorem exec_eq_shift {i : Instr} (s : State) (h : i.mnemonic ∈ Spec.shifts) :
    exec i s = finish (shift (shiftByRule i.mnemonic) i.operand s) := by
  rw [exec_eq_operation, operation_eq_shift _ h]

theorem flagsShift_eq (r : Byte) (c : Bool) (p : Flags) : flagsShift r c p = Spec.zn r { p with c := c } := by
  rw [flagsShift, flagsZN_eq]

/-- A is shifted in place, without a bus access, and then come the flags (R270). -/
theorem shift_acc (g : Byte → Bool → Byte × Bool) (s : State) :
    shift g .acc s = .ok () ((s.setA (g s.cpu.a s.cpu.p.c).1).setP
      (Spec.zn (g s.cpu.a s.cpu.p.c).1 { s.cpu.p with c := (g s.cpu.a s.cpu.p.c).2 })) := by
  rw [shift, readModifyWrite_acc, flagsShift_eq]
  rfl

/-- One read and one write of the address, and then C, Z and N, with the carry in that of before the access (R270). -/
theorem shift_of_addr {o : Operand} {s t : State} {a : Addr} (g : Byte → Bool → Byte × Bool) (h : operandAddr o s = .ok a t) :
    shift g o s = (busRead a t).bind fun m u => (busWrite a (g m s.cpu.p.c).1 u).bind fun _ w =>
      .ok () (w.setP (Spec.zn (g m s.cpu.p.c).1 { w.cpu.p with c := (g m s.cpu.p.c).2 })) := by
  simp only [shift, readModifyWrite_mem _ _ h, flagsShift_eq]

/-- Settles O25: past its address the instruction is a read, a write and the flags; a fault of the read or the write ends it. -/
theorem shiftsReadOnceAndWriteOnce : Obligations.ShiftsReadOnceAndWriteOnce := by
  intro i s hm f flags
  rw [exec_eq_shift s hm]
  refine ⟨fun hacc => ?_, fun a t haddr => ?_⟩
  · rw [hacc, shift_acc]
    rfl
  have access : shift (shiftByRule i.mnemonic) i.operand s = (busRead a t).bind fun m u => (busWrite a (f m) u).bind fun _ w =>
      .ok () (w.setP (flags m w.cpu.p)) := shift_of_addr _ haddr
  rw [access]
  refine ⟨fun m hram hread => ?_, fun m u w hread hwrite => ?_, fun u hread => ?_, fun m u w hread hwrite => ?_⟩
  · subst hread
    rw [busRead_ram t hram, Res.bind_ok, busWrite_ram _ t hram]
    rfl
  · rw [hread, Res.bind_ok, hwrite]
    rfl
  · rw [hread, Res.bind_stopped, finish_stopped]
  · rw [hread, Res.bind_ok, hwrite, Res.bind_stopped, finish_stopped]

end Sys2Proof.Machine
end

section
/-! PROOFS. Branches, subroutine calls, and the entry to an interrupt with its return (44_control_flow.md R290 to R303). -/

namespace Sys2Proof.Machine

/-! ## Branches -/

/-- A branch moves PC when its condition holds, and otherwise does nothing (R290). -/
theorem finish_branch (c : Bool) (r : Byte) (s : State) :
    finish (branch c (.rel r) s) =
      .next (if c = true then s.setPc (BitVec.ofInt 16 ((s.cpu.pc.toNat : Int) + r.toInt)) else s) := by
  cases c
  · rfl
  · rw [if_pos rfl, ← add_sext16]
    rfl

/-- Settles O26: four branches wait for a flag that is set, and four for one that is clear. -/
theorem branchesMovePcOnTheirCondition : Obligations.BranchesMovePcOnTheirCondition := by
  intro s r taken
  have onSet (c : Bool) : finish (branch c (.rel r) s) = .next (if c = true then taken else s) := finish_branch c r s
  have onClear (c : Bool) : finish (branch (!c) (.rel r) s) = .next (if c = false then taken else s) := by
    simpa only [Bool.not_eq_true'] using onSet (!c)
  exact ⟨onClear s.cpu.p.c, onSet s.cpu.p.c, onSet s.cpu.p.z, onClear s.cpu.p.z, onSet s.cpu.p.n, onClear s.cpu.p.n,
    onClear s.cpu.p.v, onSet s.cpu.p.v⟩

/-! ## JSR and RTS -/

/-- One less is 65535 more, mod 65536 (R300). -/
theorem addr_sub_one_eq_ofNat (a : Addr) : a - 1 = BitVec.ofNat 16 (a.toNat + 65535) := by
  rw [BitVec.ofNat_add, BitVec.ofNat_toNat, BitVec.setWidth_eq, BitVec.sub_eq_add_neg]
  rfl

/-- One past a pulled word (R301). -/
theorem word_add_one_eq_ofNat (lo hi : Byte) : word lo hi + 1 = BitVec.ofNat 16 (lo.toNat + 256 * hi.toNat + 1) := by
  rw [word_eq_ofNat, BitVec.ofNat_add (lo.toNat + 256 * hi.toNat) 1]
  rfl

theorem exec_jsr (a : Addr) (s : State) :
    exec (.jsr a) s = .next (((s.setRam ((s.ram.write (0x100 + s.cpu.sp.toNat) (highByte (s.cpu.pc - 1))).write
      (0x100 + (s.cpu.sp - 1).toNat) (lowByte (s.cpu.pc - 1)))).setSp (s.cpu.sp - 2)).setPc a) := by
  rw [exec_eq_operation, Instr.mnemonic, Instr.operand, operation, jumpSubroutine_abs, finish_ok]

theorem exec_rts (s : State) :
    exec .rts s = .next ((s.setSp (s.cpu.sp + 2)).setPc
      (word (s.ram.read (0x100 + (s.cpu.sp + 1).toNat)) (s.ram.read (0x100 + (s.cpu.sp + 2).toNat)) + 1)) := by
  rw [exec_eq_operation, Instr.mnemonic, operation, returnSubroutine, pull16_eq, Res.bind_ok, finish_ok]

/-- Settles O28: the two instructions by what their 16-bit push and pull do, with the address arithmetic as that of numbers. -/
theorem jsrAndRtsUseTheStack : Obligations.JsrAndRtsUseTheStack := by
  rintro s a _ _ _ rfl rfl rfl
  refine ⟨?_, ?_⟩
  · rw [← addr_sub_one_eq_ofNat]
    exact exec_jsr a s
  · rw [← word_add_one_eq_ofNat]
    exact exec_rts s

/-! ## BRK, NMI entry and RTI -/

theorem exec_brk (s : State) :
    exec .brk s = finish (enterInterrupt (s.cpu.pc + 1) true Config.brkVector s) := by
  rw [exec_eq_operation, Instr.mnemonic, operation]

theorem exec_rti (s : State) :
    exec .rti s = .next { s with cpu := { s.cpu with
      sp := s.cpu.sp + 3
      pc := word (s.ram.read (0x100 + (s.cpu.sp + 2).toNat)) (s.ram.read (0x100 + (s.cpu.sp + 3).toNat))
      p := unpack (s.ram.read (0x100 + (s.cpu.sp + 1).toNat)) } } := by
  rw [exec_eq_operation, Instr.mnemonic, operation, returnFromInterrupt_eq, finish_ok]

/-- Settles O30: the two by what entering an interrupt and returning from one do; the layout of the flags is `unpack`'s own. -/
theorem brkEntersAndRtiReturns : Obligations.BrkEntersAndRtiReturns := by
  rintro s _ _ _ _ rfl rfl rfl rfl
  refine ⟨?_, ?_⟩
  · rw [exec_brk, enterInterrupt_eq _ _ _ (by decide) (by decide)]
    rfl
  · rw [exec_rti, word_eq_ofNat]
    rfl

/-- `unpack` gives back the flags that `pack` laid out, with the bit it was given as B (10_state.md R34). -/
@[simp] theorem unpack_pack (p : Flags) (b : Bool) : unpack (pack p b) = { p with b := b } :=
  (statusByteLayout p b).2.2

/-- RTI pulls what an interrupt entry has pushed: the three stack bytes lie at different addresses whatever SP is. Of the state
between the two, only RAM and SP matter. -/
theorem exec_rti_of_enterInterrupt {s t u : State} {ret vector : Addr} {b : Bool} (hv : 0x8000 ≤ vector.toNat)
    (hv' : vector.toNat < 0xFFFF) (h : enterInterrupt ret b vector s = .ok () u) (hram : t.ram = u.ram)
    (hsp : t.cpu.sp = u.cpu.sp) :
    exec .rti t = .next { t with cpu := { t.cpu with sp := s.cpu.sp, pc := ret, p := { s.cpu.p with b := b } } } := by
  rw [enterInterrupt_eq _ _ _ hv hv'] at h
  cases h
  have sp1 : s.cpu.sp - 3 + 1 = s.cpu.sp - 2 := by bv_omega
  have sp2 : s.cpu.sp - 3 + 2 = s.cpu.sp - 1 := by bv_omega
  have low_ne_status : 0x100 + (s.cpu.sp - 1).toNat ≠ 0x100 + (s.cpu.sp - 2).toNat := by bv_omega
  have high_ne_status : 0x100 + s.cpu.sp.toNat ≠ 0x100 + (s.cpu.sp - 2).toNat := by bv_omega
  have high_ne_low : 0x100 + s.cpu.sp.toNat ≠ 0x100 + (s.cpu.sp - 1).toNat := by bv_omega
  rw [exec_rti]
  simp only [hram, hsp, sp1, sp2, BitVec.sub_add_cancel, Memory.read_write_same, Memory.read_write_ne _ _ low_ne_status,
    Memory.read_write_ne _ _ high_ne_status, Memory.read_write_ne _ _ high_ne_low, word_lowByte_highByte, unpack_pack]

/-- Settles O31: BRK and NMI entry are one operation, which never faults, and RTI undoes it; what NMI entry does besides
leaves RAM and SP alone. -/
theorem rtiUndoesInterruptEntry : Obligations.RtiUndoesInterruptEntry := by
  intro s t
  refine ⟨fun h => ?_, fun h => ?_⟩
  · have entered := enterInterrupt_eq (s.cpu.pc + 1) true (vector := Config.brkVector) s (by decide) (by decide)
    rw [exec_brk, entered, finish_ok, Host.Outcome.next.injEq] at h
    exact exec_rti_of_enterInterrupt (vector := Config.brkVector) (by decide) (by decide) (h ▸ entered) rfl rfl
  · obtain ⟨_, u, entered, ht⟩ := Res.bind_eq_ok.mp h
    cases ht
    exact exec_rti_of_enterInterrupt (s := s.setMacro .servicingInterrupt) (vector := Config.nmiVector) (by decide) (by decide)
      entered rfl rfl

end Sys2Proof.Machine
end

section
/-! PROOFS. The end of a run (60_exceptions.md R473): a run has one end at most, and the machine goes on past it. -/

namespace Sys2Proof.Machine

/-! ## A run has one end -/

/-- A number of steps from a state leads to one state at most: a step is a function. -/
theorem stepsTo_unique {k : Nat} {s t t' : State} (h : stepsTo k s t) (h' : stepsTo k s t') : t' = t := by
  induction k generalizing s with
  | zero => exact h'.trans h.symm
  | succ k ih =>
    obtain ⟨u, hu, h⟩ := h
    obtain ⟨u', hu', h'⟩ := h'
    rw [hu, Host.Outcome.next.injEq] at hu'
    subst hu'
    exact ih h h'

/-- No end of a run comes before another, so they are one. -/
theorem EndOfRun.unique {k k' : Nat} {s t t' : State} (h : EndOfRun k s t) (h' : EndOfRun k' s t') : k' = k ∧ t' = t := by
  rcases lt_trichotomy k k' with hlt | rfl | hlt
  · exact absurd h.selfJump (h'.first k t hlt h.reached)
  · exact ⟨rfl, stepsTo_unique h.reached h'.reached⟩
  · exact absurd h'.selfJump (h.first k' t' hlt h'.reached)

/-! ## What the end of a step leaves alone -/

theorem endStep_ram (c : Nat) (s : State) : (endStep c s).ram = s.ram := by
  rw [endStep_eq]
  split_ifs
  · exact (run_sameCpuSide (s.setPublished []) (c * s.params.ppuRatio)).ram
  · rfl

/-- The record is a field of the CPU, which the end of a step leaves. -/
theorem endStep_fault (c : Nat) (s : State) : (endStep c s).fault = s.fault := by
  rw [State.fault, endStep_cpu, State.fault]

theorem endStep_peek (c : Nat) (s : State) (a : Addr) : peek (endStep c s) a = peek s a := by
  rw [peek, endStep_ram, (endStep_sameImage c s).params, peek]

theorem SelfJumpBoundary.endStep {s : State} (c : Nat) (h : SelfJumpBoundary s) : SelfJumpBoundary (endStep c s) := by
  simpa only [SelfJumpBoundary, NoFault, endStep_fault, endStep_peek, endStep_cpu] using h

/-! ## The step from a self-jump boundary -/

/-- The bytes at PC encode the JMP to PC. -/
theorem SelfJumpBoundary.peeksAt {s : State} (h : SelfJumpBoundary s) : PeeksAt s s.cpu.pc (encode (.jmpAbs s.cpu.pc)) := by
  obtain ⟨-, hop, hlo, hhi⟩ := h
  intro k b hk
  match k, hk with
  | 0, rfl => rwa [BitVec.add_zero]
  | 1, rfl => exact hlo
  | 2, rfl => exact hhi

/-- With no NMI pending the JMP is fetched and executed, and what is left of the step is its end. -/
theorem SelfJumpBoundary.step_eq {s : State} (h : SelfJumpBoundary s) (hn : s.nmiPending = false) :
    ∃ c, step s = .next (Machine.endStep c s) :=
  ⟨_, step_of_fetchInstr h.1 hn (fetchInstr_of_peeksAt h.peeksAt) rfl⟩

/-- With an NMI pending a step without a fault recorded is NMI entry and the end of the step (R458 to R460). -/
theorem step_of_nmiPending {s t : State} (hf : s.fault = none) (hn : s.nmiPending = true)
    (h : nmiEntry (s.setNmi false) = .ok () t) : step s = .next (endStep Config.nmiCycles t) := by
  simp [step, hf, systemStep, hn, nmiStep, h]

/-- Settles O59: one end by `EndOfRun.unique`; the step from it runs the JMP or enters the NMI, and its end changes neither the
CPU nor the bytes at PC. -/
theorem aRunEndsAtItsFirstSelfJump : Obligations.ARunEndsAtItsFirstSelfJump := by
  intro k s t h
  obtain ⟨hf, hop, hlo, hhi⟩ := h.selfJump
  have target : (lowByte t.cpu.pc).toNat + 256 * (highByte t.cpu.pc).toNat = t.cpu.pc.toNat := by
    rw [← word_toNat, word_lowByte_highByte]
  refine ⟨fun _ _ => h.unique, ⟨hf, hop, _, _, hlo, hhi, target⟩, ?_⟩
  cases hn : t.nmiPending
  case false =>
    obtain ⟨c, hstep⟩ := h.selfJump.step_eq hn
    exact ⟨_, hstep, (endStep_fault c t).trans hf, fun _ => ⟨endStep_cpu c t, endStep_ram c t, h.selfJump.endStep c⟩, nofun⟩
  case true =>
    refine ⟨_, step_of_nmiPending hf hn (nmiEntry_eq _), ?_, nofun, fun _ => ?_⟩
    · rw [endStep_fault]
      rfl
    · rw [endStep_cpu]
      rfl

end Sys2Proof.Machine
end

section
/-! PROOFS. The stack, status-flag and no-operation instructions (45_stack_status.md R320 to R331): none of them can fault. -/

namespace Sys2Proof.Machine

/-- An instruction whose operation goes through ends in the state the operation leaves. -/
theorem exec_of_operation_ok {i : Instr} {s t : State} (h : operation i.mnemonic i.operand s = .ok () t) : exec i s = .next t := by
  rw [exec_eq_operation, h, finish_ok]

/-! ## Stack -/

/-- PLA goes on past its pull, with Z and N in the terms of R13 (R322). -/
theorem pullA_eq (s : State) :
    pullA s = .ok () { s with cpu := { s.cpu with
      sp := s.cpu.sp + 1
      a := s.ram.read (0x100 + (s.cpu.sp + 1).toNat)
      p := Spec.zn (s.ram.read (0x100 + (s.cpu.sp + 1).toNat)) s.cpu.p } } := by
  rw [pullA, pull_eq, Res.bind_ok, setA_setZN_eq]
  rfl

/-- PLP goes on past its pull (R323). -/
theorem pullP_eq (s : State) :
    pullP s = .ok () { s with cpu := { s.cpu with
      sp := s.cpu.sp + 1
      p := unpack (s.ram.read (0x100 + (s.cpu.sp + 1).toNat)) } } := by
  rw [pullP, pull_eq, Res.bind_ok]
  rfl

/-- Settles O32: PHA and PHP are one push each, and PLA and PLP one pull with what they make of its byte. -/
theorem stackInstructionsMoveOneByte : Obligations.StackInstructionsMoveOneByte := by
  rintro s _ rfl
  refine ⟨?pha, ?php, ?pla, ?plp⟩
  case pha => exact exec_of_operation_ok (push_eq s.cpu.a s)
  case php => exact exec_of_operation_ok (push_eq (pack s.cpu.p true) s)
  case pla => exact exec_of_operation_ok (pullA_eq s)
  case plp => exact exec_of_operation_ok (pullP_eq s)

/-! ## Flags -/

/-- Settles O34: the operation of each is one write of the flags with one of them new, and NOP's is none. -/
theorem flagInstructionsChangeOneFlag : Obligations.FlagInstructionsChangeOneFlag := fun _ =>
  ⟨exec_of_operation_ok (i := .clc) rfl, exec_of_operation_ok (i := .cld) rfl, exec_of_operation_ok (i := .cli) rfl,
    exec_of_operation_ok (i := .clv) rfl, exec_of_operation_ok (i := .sec) rfl, exec_of_operation_ok (i := .sed) rfl,
    exec_of_operation_ok (i := .sei) rfl, exec_of_operation_ok (i := .nop) rfl⟩

end Sys2Proof.Machine
end

section
/-! PROOFS. The PPU registers seen from the CPU: the status read, the ports that write one register each, and the buffered data port
(46_ppu_registers.md R350 to R360). -/

namespace Sys2Proof.Machine

/-! ## The register an address names -/

/-- The eight addresses 0x2000-0x2007, by the register each names. -/
def ppuPort (r : PpuReg) : Addr := BitVec.ofNat 16 (0x2000 + ppuRegIndex r)

theorem ppuRegAt_ppuPort (r : PpuReg) : ppuRegAt (ppuPort r) = r := by
  cases r <;> rfl

theorem ppuPort_inWindow (r : PpuReg) : 0x2000 ≤ (ppuPort r).toNat ∧ (ppuPort r).toNat < 0x4000 := by
  cases r <;> decide

theorem busRead_ppuPort (r : PpuReg) (s : State) : busRead (ppuPort r) s = ppuRegRead r s := by
  obtain ⟨h1, h2⟩ := ppuPort_inWindow r
  rw [busRead_window s h1 h2, ppuRegAt_ppuPort]

theorem busWrite_ppuPort (r : PpuReg) (v : Byte) (s : State) : busWrite (ppuPort r) v s = ppuRegWrite r v s := by
  obtain ⟨h1, h2⟩ := ppuPort_inWindow r
  rw [busWrite_window v s h1 h2, ppuRegAt_ppuPort]

/-! ## PPUSTATUS -/

/-- Above its six free bits the status byte is the two flags (10_state.md R43). -/
theorem statusByte_getLsbD_flags (vbl s0 : Bool) (free : Byte) (i : Nat) :
    (statusByte vbl s0 free).getLsbD (6 + i) = (BitVec.ofBool vbl ++ BitVec.ofBool s0).getLsbD i := by
  have split := BitVec.getLsbD_append (x := BitVec.ofBool vbl ++ BitVec.ofBool s0) (y := free.setWidth 6) (i := 6 + i)
  rwa [if_neg (by omega), Nat.add_sub_cancel_left] at split

theorem statusByte_vbl (vbl s0 : Bool) (free : Byte) : (statusByte vbl s0 free).getLsbD 7 = vbl := by
  rw [statusByte_getLsbD_flags vbl s0 free 1]
  cases vbl <;> cases s0 <;> rfl

theorem statusByte_s0 (vbl s0 : Bool) (free : Byte) : (statusByte vbl s0 free).getLsbD 6 = s0 := by
  rw [statusByte_getLsbD_flags vbl s0 free 0]
  cases vbl <;> cases s0 <;> rfl

/-- Settles O46: bits 7 and 6 of the status byte are the two flags, whatever the free byte is. -/
theorem statusReadClearsVblOnly : Obligations.StatusReadClearsVblOnly := by
  intro s a h1 h2 hr
  have read : busRead a s = readStatus s := by
    rw [busRead_window s h1 h2, ppuRegAt_of_index (r := .status) hr, ppuRegRead]
  exact ⟨_, read, statusByte_vbl _ _ _, statusByte_s0 _ _ _⟩

/-! ## The ports of one register each -/

/-- The cursor moves mod 256 (R354). -/
theorem writeOamData_eq (v : Byte) (s : State) : writeOamData v s = { s with
    vmem := { s.vmem with oam := s.vmem.oam.write s.ppu.oamAddr.toNat v }
    ppu := { s.ppu with oamAddr := BitVec.ofNat 8 (s.ppu.oamAddr.toNat + 1) } } := by
  rw [writeOamData, add_one_eq_ofNat]
  rfl

theorem writeScroll_first {s : State} (v : Byte) (h : s.ppu.w = .first) :
    writeScroll v s = s.setPpu { s.ppu with scrollX := v, w := .second } := by
  rw [writeScroll, h]

theorem writeScroll_second {s : State} (v : Byte) (h : s.ppu.w = .second) :
    writeScroll v s = s.setPpu { s.ppu with scrollY := v, w := .first } := by
  rw [writeScroll, h]

/-- The first write gives the high byte of the pointer, over a low byte of 0 (R357). -/
theorem writeAddr_first {s : State} (v : Byte) (h : s.ppu.w = .first) :
    writeAddr v s = s.setPpu { s.ppu with vramAddr := BitVec.ofNat 16 (v.toNat * 256), w := .second } := by
  rw [writeAddr, h, page_start]

/-- The second write adds to the pointer, with 16-bit wrap (R357). -/
theorem writeAddr_second {s : State} (v : Byte) (h : s.ppu.w = .second) :
    writeAddr v s = s.setPpu { s.ppu with vramAddr := BitVec.ofNat 16 (s.ppu.vramAddr.toNat + v.toNat), w := .first } := by
  rw [writeAddr, h, add_zext16]

/-- Settles O47: each port is the write of its register, and the two with a toggle by the position of the toggle. -/
theorem ppuPortsWriteTheirRegisters : Obligations.PpuPortsWriteTheirRegisters := by
  intro s v
  have oamData : busWrite 0x2004 v s = .ok () (writeOamData v s) := busWrite_ppuPort .oamData v s
  have scroll : busWrite 0x2005 v s = .ok () (writeScroll v s) := busWrite_ppuPort .scroll v s
  have addr : busWrite 0x2006 v s = .ok () (writeAddr v s) := busWrite_ppuPort .addr v s
  refine ⟨busWrite_ppuPort .ctrl v s, busWrite_ppuPort .mask v s, busWrite_ppuPort .oamAddr v s, ?oamDataWrite,
    busRead_ppuPort .oamData s, fun first => ⟨?scrollX, ?addrHigh⟩, fun second => ⟨?scrollY, ?addrLow⟩⟩
  case oamDataWrite => rw [oamData, writeOamData_eq]
  case scrollX => rw [scroll, writeScroll_first v first, State.setPpu]
  case addrHigh => rw [addr, writeAddr_first v first, State.setPpu]
  case scrollY => rw [scroll, writeScroll_second v second, State.setPpu]
  case addrLow => rw [addr, writeAddr_second v second, State.setPpu]

/-! ## PPUDATA -/

/-- The pointer after an access: 1 or 32 further, mod 65536 (R358). -/
theorem vramAddr_add_vramStep (r : PpuRegs) :
    r.vramAddr + vramStep r = BitVec.ofNat 16 (r.vramAddr.toNat + if r.ctrl.getLsbD 2 then 32 else 1) := by
  rw [vramStep, ctrlInc, bit, BitVec.ofNat_add, BitVec.ofNat_toNat, BitVec.setWidth_eq]
  split <;> rfl

/-- A data write that goes on moves the pointer it stored at (R359). -/
theorem writeData_ok {s t : State} {v : Byte} (h : ppuMemWrite s.ppu.vramAddr v s = .ok () t) :
    writeData v s = .ok () (t.setPpu { t.ppu with vramAddr := s.ppu.vramAddr + vramStep s.ppu }) := by
  obtain ⟨samePpu, -⟩ := ppuMemWrite_frame h
  rw [writeData, h, Res.bind_ok, advanceVram, samePpu]

/-- A data write that faults leaves the pointer (R359, 60_exceptions.md R453). -/
theorem writeData_stopped {s t : State} {v : Byte} (h : ppuMemWrite s.ppu.vramAddr v s = .stopped t) :
    writeData v s = .stopped t := by
  rw [writeData, h, Res.bind_stopped]

/-- Below the palette a read gives the buffer and refills it (R360). -/
theorem readData_buffered {s : State} (h : ppuAddress s.ppu.vramAddr < 0x3F00) :
    readData s = .ok s.ppu.readBuf (s.setPpu { s.ppu with
      readBuf := ppuMemRead s.ppu.vramAddr s, vramAddr := s.ppu.vramAddr + vramStep s.ppu }) := by
  simp only [readData, if_pos h]
  rfl

/-- In the palette a read is immediate and leaves the buffer (R360). -/
theorem readData_immediate {s : State} (h : 0x3F00 ≤ ppuAddress s.ppu.vramAddr) :
    readData s = .ok (ppuMemRead s.ppu.vramAddr s) (s.setPpu { s.ppu with vramAddr := s.ppu.vramAddr + vramStep s.ppu }) := by
  simp only [readData, if_neg (Nat.not_lt.mpr h)]
  rfl

/-- Settles O48: the four cases of an access through the data port, each with the same move of the pointer. -/
theorem dataPortIsBufferedBelowThePalette : Obligations.DataPortIsBufferedBelowThePalette := by
  intro s v next hnext
  rw [← vramAddr_add_vramStep] at hnext
  subst hnext
  exact ⟨fun _ h => (busWrite_ppuPort .data v s).trans (writeData_ok h),
    fun _ h => (busWrite_ppuPort .data v s).trans (writeData_stopped h),
    fun h => (busRead_ppuPort .data s).trans (readData_buffered h),
    fun h => (busRead_ppuPort .data s).trans (readData_immediate h)⟩

end Sys2Proof.Machine
end

section
/-! PROOFS. The PPU scanline engine (47_ppu_scanline.md R380 to R398): a run in two parts and the cadence of a frame, the phases of a
line, and the items that a tile row and sprite evaluation queue. -/

namespace Sys2Proof.Machine

/-! ## A run in two parts -/

theorem State.addCredits_addCredits (s : State) (a b : Nat) : (s.addCredits a).addCredits b = s.addCredits (a + b) := by
  rw [State.addCredits, State.addCredits_scan, State.addCredits_setScan, State.addCredits, Nat.add_assoc]

/-- The lines that a run's own credits make up turn before the credits of a run after it are seen. -/
theorem runLines_addCredits_run (s : State) (a b : Nat) :
    runLines ((s.scan.cycAcc + a) / 341) (s.addCredits (a + b)) = ((run a s).1.addCredits b, (run a s).2) := by
  rw [← State.addCredits_addCredits, run_eq]
  exact (runLines_addCredits (s.addCredits a) _ b (Nat.div_mul_le_self _ _)).1

/-- Settles O49: the lines of the whole run are those of its first part and those of its second, which starts from the credits the
first leaves. -/
theorem runIsAdditiveInItsCredits : Obligations.RunIsAdditiveInItsCredits := by
  intro s a b
  have lines : (s.scan.cycAcc + (a + b)) / 341 = (s.scan.cycAcc + a) / 341 + ((run a s).1.scan.cycAcc + b) / 341 := by
    rw [run_cycAcc]
    omega
  have enough : ((s.scan.cycAcc + (a + b)) / 341) * 341 ≤ (s.addCredits (a + b)).scan.cycAcc := Nat.div_mul_le_self _ _
  rw [run_eq s (a + b)]
  rw [lines] at enough ⊢
  rw [runLines_add _ _ _ enough, runLines_addCredits_run, run_eq _ b]

/-! ## The cadence of a frame -/

/-- Line 241 is among the `k` lines after line `l` of a frame. -/
def reachesVblank (l k : Nat) : Bool := decide (l ≤ 240 ∧ 240 < l + k)

theorem reachesVblank_zero (l : Nat) : reachesVblank l 0 = false :=
  decide_eq_false (by omega)

theorem reachesVblank_succ (l k : Nat) : reachesVblank l (k + 1) = (decide (l = 240) || reachesVblank (l + 1) k) := by
  rw [reachesVblank, reachesVblank, ← Bool.decide_or]
  exact decide_eq_decide.mpr (by omega)

/-- Up to the last line of a frame, VBL is set and the NMI raised by the one line 241 and by no other. -/
theorem runLines_flags (s : State) (k : Nat) (hl : s.scan.line + k ≤ 262) (hc : k * 341 ≤ s.scan.cycAcc) :
    (runLines k s).1.ppu.vbl = (s.ppu.vbl || reachesVblank s.scan.line k) ∧
    (runLines k s).1.nmiPending = (s.nmiPending || (reachesVblank s.scan.line k && ctrlNmie s.ppu)) := by
  induction k generalizing s with
  | zero => simp [runLines, reachesVblank_zero]
  | succ k ih =>
    obtain ⟨nmi, vbl, -⟩ := nextLine_flags s
    replace vbl : (nextLine s).1.ppu.vbl = (s.ppu.vbl || decide (s.scan.line = 240)) := by
      rw [vbl, if_neg (show ¬262 ≤ s.scan.line by omega)]
      by_cases h : s.scan.line = 240 <;> simp [h]
    have line : (nextLine s).1.scan.line = s.scan.line + 1 := by
      rw [(nextLine_scan s rfl).1]
      exact if_neg (by omega)
    have nmie : ctrlNmie (nextLine s).1.ppu = ctrlNmie s.ppu := by
      rw [ctrlNmie, (nextLine_sameCpuSide s).ctrl, ctrlNmie]
    obtain ⟨left, -, -⟩ := credits_left hc (nextLine_cycAcc s rfl)
    obtain ⟨ihVbl, ihNmi⟩ := ih (nextLine s).1 (by omega) left
    rw [runLines_turn s hc, reachesVblank_succ, Bool.and_or_distrib_right, ← Bool.or_assoc, ← Bool.or_assoc]
    exact ⟨by rw [ihVbl, vbl, line], by rw [ihNmi, nmi, line, nmie]⟩

section
variable {s : State} (start : s.scan = { cycAcc := 0, line := 0, rowCursor := 0 })
include start

/-- What a run from the start of a frame does to the flags before the frame is over (R384, R386). -/
theorem run_flags_of_frameStart {n : Nat} (hn : n < 89683) :
    (run n s).1.ppu.vbl = (s.ppu.vbl || decide (82181 ≤ n)) ∧
    (run n s).1.nmiPending = (s.nmiPending || (decide (82181 ≤ n) && ctrlNmie s.ppu)) := by
  have scan : (s.addCredits n).scan = { cycAcc := n, line := 0, rowCursor := 0 } := by
    rw [State.addCredits_scan, start, Nat.zero_add]
  have vblank : reachesVblank 0 (n / 341) = decide (82181 ≤ n) := decide_eq_decide.mpr (by omega)
  have lines : 0 + n / 341 ≤ 262 := by omega
  have flags := runLines_flags (s.addCredits n) (n / 341)
  rw [scan, vblank] at flags
  rw [run_eq, start, Nat.zero_add]
  exact flags lines (Nat.div_mul_le_self _ _)

/-- The frames a run from the start of a frame completes, and the counters it leaves (R386). -/
theorem run_counters_of_frameStart (n : Nat) :
    (run n s).2 = n / 341 / 263 ∧
    (run n s).1.scan =
      { cycAcc := n % 341, line := n / 341 % 263, rowCursor := min (n / 341 % 263 / 8) 30 } := by
  have counters := run_scanInv s n (by simp [start]) (by simp [start])
  have cycAcc := run_cycAcc s n
  have frames := run_count s n (by simp [start])
  rw [start, Nat.zero_add] at cycAcc frames
  obtain ⟨-, line, rowCursor⟩ := counters
  change _ < 263 at line
  generalize (run n s).1.scan = e at *
  obtain ⟨c, l, r⟩ := e
  dsimp only at *
  have hl : l = n / 341 % 263 := by omega
  subst hl cycAcc rowCursor
  exact ⟨by omega, rfl⟩

end

/-- A run on the last credit of a line is the turn of that line. -/
theorem run_one_of_lineEnd {s : State} (h : s.scan.cycAcc = 340) : run 1 s = nextLine (s.addCredits 1) := by
  have turn : (0 + 1) * 341 ≤ (s.addCredits 1).scan.cycAcc := by rw [State.addCredits_scan, h]
  rw [run_eq, h]
  exact runLines_turn (s.addCredits 1) turn

/-- The credit that ends the last line of a frame clears VBL, S0 and the layers (R385). -/
theorem run_clears_at_frameEnd {s : State} {n : Nat} (h : (run n s).1.scan = { cycAcc := 340, line := 262, rowCursor := 30 }) :
    (run (n + 1) s).1.ppu.vbl = false ∧ (run (n + 1) s).1.ppu.s0 = false ∧ (run (n + 1) s).1.rend.bg = [] ∧
    (run (n + 1) s).1.rend.behind = [] ∧ (run (n + 1) s).1.rend.front = [] := by
  rw [runIsAdditiveInItsCredits, run_one_of_lineEnd (by rw [h])]
  have line : ((run n s).1.addCredits 1).scan.line = 262 := by rw [State.addCredits_scan, h]
  obtain ⟨-, vbl, cleared⟩ := nextLine_flags ((run n s).1.addCredits 1)
  rw [line, if_neg (by decide), if_pos (by decide)] at vbl
  exact ⟨vbl, cleared (Nat.le_of_eq line.symm)⟩

/-- Settles O50: the counters and the flags before the frame is over are those of whole lines; the last credit turns the last line,
which clears the rest. -/
theorem frameCadence : Obligations.FrameCadence := by
  intro s start
  refine ⟨?frame, ?oneCreditLess, ?beforeVblank, ?fromVblank⟩
  case frame =>
    obtain ⟨frames, counters⟩ := run_counters_of_frameStart start 89683
    exact ⟨frames, counters, run_clears_at_frameEnd (run_counters_of_frameStart start 89682).2⟩
  case oneCreditLess => exact run_counters_of_frameStart start 89682
  case beforeVblank =>
    intro n hn
    obtain ⟨vbl, nmi⟩ := run_flags_of_frameStart start (n := n) (by omega)
    rw [decide_eq_false (by omega)] at vbl nmi
    exact ⟨by rw [vbl, Bool.or_false], by rw [nmi, Bool.false_and, Bool.or_false]⟩
  case fromVblank =>
    intro n hn hn'
    obtain ⟨vbl, nmi⟩ := run_flags_of_frameStart start hn'
    rw [decide_eq_true hn] at vbl nmi
    exact ⟨by rw [vbl, Bool.or_true], by rw [nmi, Bool.true_and]; rfl⟩

/-! ## The items of the background (R390 to R393) -/

theorem mul_flag (n : Nat) (b : Bool) : n * flag b = if b then n else 0 := by
  cases b <;> simp [flag]

/-- A tile's first pattern byte as a number (20_memory.md R103). -/
theorem tilePattern_patternBase (high : Bool) (tile : Byte) :
    tilePattern (patternBase high) tile = BitVec.ofNat 16 ((if high then 0x1000 else 0) + 16 * tile.toNat) := by
  rw [tilePattern, zext16_eq_ofNat, BitVec.ofNat_add, BitVec.ofNat_mul]
  cases high <;> rfl

/-- The first of the four entries of a palette, as a number (R393, R396). -/
theorem paletteEntries_eq_ofNat (base : Addr) (p : BitVec 2) :
    base + 4 * p.setWidth 16 = BitVec.ofNat 16 (base.toNat + 4 * p.toNat) := by
  rw [BitVec.ofNat_add, BitVec.ofNat_mul, BitVec.ofNat_toNat, BitVec.ofNat_toNat, BitVec.setWidth_eq]
  rfl

/-- The two bits a byte holds for a quadrant, as a number (R392). -/
theorem shifted_setWidth_two (v : Byte) (n : Nat) : (v >>> n).setWidth 2 = BitVec.ofNat 2 (v.toNat / 2 ^ n % 4) := by
  apply BitVec.eq_of_toNat_eq
  rw [BitVec.toNat_setWidth, BitVec.toNat_ushiftRight, Nat.shiftRight_eq_div_pow, BitVec.toNat_ofNat, Nat.mod_mod]

/-- The model's background item is that of the rules. -/
theorem backgroundItem_eq (s : State) (r c : Nat) : backgroundItem s r c = Spec.backgroundItem s r c := by
  have paletteNumber (n : Nat) : (BitVec.ofNat 2 (n % 4)).toNat = n % 4 := by
    rw [BitVec.toNat_ofNat, Nat.mod_mod]
  simp only [backgroundItem, scrolledX, scrolledY, mul_flag, tilePattern_patternBase, shifted_setWidth_two,
    paletteEntries_eq_ofNat, paletteNumber]
  rfl

/-! ## A tile row (R382, R394) -/

/-- The rows of sprite 0, by its OAM Y byte and the sprite size. -/
theorem sprite0Overlaps_eq (s : State) (row : Nat) :
    sprite0Overlaps s row =
      decide ((s.vmem.oam.read 0).toNat + s.params.spriteYOffset.val < 8 * row + 8 ∧
        (s.vmem.oam.read 0).toNat + s.params.spriteYOffset.val + (if s.ppu.ctrl.getLsbD 5 then 16 else 8) > 8 * row) := rfl

theorem buildBackgroundRow_eq (row : Nat) (s : State) :
    buildBackgroundRow row s =
      s.setRend { s.rend with bg := s.rend.bg ++ (List.range 32).map (Spec.backgroundItem s row) } := by
  rw [buildBackgroundRow, funext (backgroundItem_eq s row)]
  rfl

theorem tileRow_of_disabled {s : State} (h : s.ppu.mask.getLsbD 3 = false) :
    tileRow s = { s with scan := { s.scan with rowCursor := s.scan.rowCursor + 1 } } := by
  have disabled : maskBge s.ppu = false := h
  simp only [tileRow, State.setScan_ppu, disabled, Bool.false_eq_true, if_false]
  rfl

theorem tileRow_of_enabled {s : State} (h : s.ppu.mask.getLsbD 3 = true) :
    tileRow s = { s with
      scan := { s.scan with rowCursor := s.scan.rowCursor + 1 }
      rend := { s.rend with bg := s.rend.bg ++ (List.range 32).map (Spec.backgroundItem s s.scan.rowCursor) }
      ppu := { s.ppu with s0 := s.ppu.s0 || (s.ppu.mask.getLsbD 4 && sprite0Overlaps s s.scan.rowCursor) } } := by
  have enabled : maskBge s.ppu = true := h
  simp only [tileRow, State.setScan_ppu, enabled, if_true, buildBackgroundRow_eq, sprite0Check_eq, State.setRend_ppu, Bool.true_and]
  rfl

/-- Settles O52: a tile row is all that happens on such a line, and its items and its check are those of the rules. -/
theorem tileRowQueuesTheBackground : Obligations.TileRowQueuesTheBackground := by
  rintro s _ _ _ hline hrow rfl rfl rfl
  rw [linePhases_tileRow s hline hrow, ← sprite0Overlaps_eq]
  exact ⟨tileRow_of_disabled, tileRow_of_enabled⟩

/-! ## The phases of a line (R381, R384, R385) -/

/-- Sprite evaluation and Composite change neither the PPU's registers nor the counters. -/
theorem frameBoundary_eq_composite (s : State) :
    frameBoundary s = { composite (if s.ppu.mask.getLsbD 4 then evaluateSprites s else s) with
      ppu := { s.ppu with vbl := false, s0 := false }
      scan := { s.scan with line := 0, rowCursor := 0 } } := by
  rw [frameBoundary, maskSpe, bit]
  cases s.ppu.mask.getLsbD 4 <;> rfl

/-- Of the flags and the line, a tile row changes S0 alone. -/
theorem tileRow_flags (s : State) :
    (tileRow s).scan.line = s.scan.line ∧ (tileRow s).nmiPending = s.nmiPending ∧ (tileRow s).ppu.vbl = s.ppu.vbl ∧
    (tileRow s).ppu.s0 = (s.ppu.s0 || (s.ppu.mask.getLsbD 3 && s.ppu.mask.getLsbD 4 && sprite0Overlaps s s.scan.rowCursor)) := by
  cases h : s.ppu.mask.getLsbD 3
  case false =>
    rw [tileRow_of_disabled h]
    exact ⟨rfl, rfl, rfl, by simp⟩
  case true =>
    rw [tileRow_of_enabled h, Bool.true_and]
    exact ⟨rfl, rfl, rfl, rfl⟩

/-- Settles O51: line 241 is VBlank entry, a line from 263 on the frame boundary, and any other a tile row or a line without a
phase. -/
theorem linePhasesSetAndClearTheFlags : Obligations.LinePhasesSetAndClearTheFlags := by
  rintro s top h r rfl htop hh
  refine ⟨fun vblank => ?vblank, fun boundary => ?boundary, fun before notVblank => ?other⟩
  case vblank => rw [linePhases_vblank s vblank, vblankEntry_eq]; rfl
  case boundary => rw [linePhases_boundary s boundary, frameBoundary_eq_composite]
  case other =>
    by_cases row : s.scan.line ≤ 240 ∧ s.scan.line % 8 = 0
    · rw [linePhases_tileRow s row.1 row.2]
      obtain ⟨line, nmi, vbl, s0⟩ := tileRow_flags s
      refine ⟨rfl, line, nmi, vbl, ?_, fun no => absurd row no⟩
      rw [s0, sprite0Overlaps_eq, ← htop, ← hh]
      simp [row, Bool.and_assoc]
    · rw [linePhases_quiet s before notVblank row]
      refine ⟨rfl, rfl, rfl, rfl, ?_, fun _ => rfl⟩
      rw [decide_eq_false fun yes => row ⟨yes.1, yes.2.1⟩, Bool.or_false]

/-! ## Sprite evaluation (R396 to R398) -/

theorem flatMap_filter_eq {α β : Type} (p : α → Bool) (f : α → List β) (l : List α) :
    (l.filter p).flatMap f = l.flatMap fun a => if p a then f a else [] := by
  induction l with
  | nil => rfl
  | cons a l ih => cases h : p a <;> simp [h, ih]

/-- The even tile of a pair (R398). -/
theorem evenTile_toNat (tile : Byte) : (tile &&& 0xFE).toNat = 2 * (tile.toNat / 2) := by
  have := tile.isLt
  have lowBitCleared : tile &&& (0xFE : Byte) = (tile >>> 1) <<< 1 := by
    rw [BitVec.shiftLeft_ushiftRight]
    rfl
  rw [lowBitCleared, shiftLeft_one_toNat, shiftRight_one_toNat]
  omega

/-- The odd tile of a pair (R398). -/
theorem oddTile_toNat (tile : Byte) : ((tile &&& 0xFE) + 1).toNat = 2 * (tile.toNat / 2) + 1 := by
  have := tile.isLt
  rw [add_one_eq_ofNat, evenTile_toNat, BitVec.toNat_ofNat]
  omega

/-- One item of a sprite, with the fields of its third OAM byte as numbers (R396). -/
theorem spritePart_eq (attr x : Byte) (i : Fin 64) (pat : Addr) (y : Int) :
    spritePart attr x i pat y =
      { pat := pat, palBase := BitVec.ofNat 16 (0x3F10 + 4 * (attr.toNat % 4)), sprite := some i,
        palette := BitVec.ofNat 2 attr.toNat, x := x.toNat, y := y, hflip := attr.getLsbD 6, vflip := attr.getLsbD 7 } := by
  rw [spritePart, paletteEntries_eq_ofNat, BitVec.toNat_setWidth, BitVec.ofNat_toNat]
  rfl

/-- The model's items of a sprite are those of the rules: one by R397, or the two of R398 by their order in the pair. -/
theorem spriteItems_eq (s : State) (i : Fin 64) : spriteItems s i = Spec.spriteItems s i := by
  simp only [spriteItems, Spec.spriteItems, spritePart_eq, tilePattern_patternBase, bit0_eq, decide_eq_true_eq]
  by_cases tall : s.ppu.ctrl.getLsbD 5 = true
  · by_cases upsideDown : (s.vmem.oam.read (4 * i.val + 2)).getLsbD 7 = true
    · simp only [ctrlSh, bit, tall, upsideDown, if_true, evenTile_toNat, oddTile_toNat]
      rfl
    · simp only [ctrlSh, bit, tall, upsideDown, Bool.false_eq_true, if_true, if_false, evenTile_toNat, oddTile_toNat]
      rfl
  · simp only [ctrlSh, bit, tall, Bool.false_eq_true, if_false]
    rfl

/-- Settles O53: a layer's entries are those of the 64 whose bit 5 says so, in the same order, and their items are those of the
rules. -/
theorem spritesAreQueuedInOamOrder : Obligations.SpritesAreQueuedInOamOrder := by
  intro s
  have inFront (i : Fin 64) : (if (!spriteBehind s i) = true then Spec.spriteItems s i else []) =
      if (s.vmem.oam.read (4 * i.val + 2)).getLsbD 5 then [] else Spec.spriteItems s i := by
    rw [spriteBehind, bit]
    cases (s.vmem.oam.read (4 * i.val + 2)).getLsbD 5 <;> rfl
  simp only [evaluateSprites, flatMap_filter_eq, spriteItems_eq, inFront]
  rfl

end Sys2Proof.Machine
end

section
/-! PROOFS. The compositor (48_compositor.md R420 to R437): what each pass leaves in a pixel, and the colour the four leave there
together. -/

namespace Sys2Proof.Machine

/-! ## Patterns and colours as the rules give them -/

theorem flag_bit_eq (v : Byte) (i : Nat) : flag (bit v i) = v.toNat / 2 ^ i % 2 :=
  Nat.toNat_testBit v.toNat i

theorem addr_add_ofNat (a : Addr) (n : Nat) : a + BitVec.ofNat 16 n = BitVec.ofNat 16 (a.toNat + n) := by
  rw [BitVec.ofNat_add, BitVec.ofNat_toNat, BitVec.setWidth_eq]

/-- The two planes of a row of a tile are 8 bytes apart (R424). -/
theorem patternValue_eq (s : State) (pat : Addr) (sx sy : Nat) : patternValue s pat sx sy = Spec.patternValue s pat sx sy := by
  have high : pat + 8 + BitVec.ofNat 16 sy = BitVec.ofNat 16 (pat.toNat + 8 + sy) := by
    rw [BitVec.ofNat_add, ← addr_add_ofNat]
    rfl
  rw [patternValue, high, addr_add_ofNat, flag_bit_eq, flag_bit_eq]
  rfl

theorem itemValueAt_eq (s : State) : itemValueAt s = Spec.itemValue s := by
  funext it px py
  exact patternValue_eq s it.pat _ _

/-- The low 6 bits of the palette byte (R426). -/
theorem colour_eq (s : State) : colour s = Spec.colour s := by
  funext palBase v
  have low (b : Byte) : b.setWidth 6 = BitVec.ofNat 6 (b.toNat % 64) := by
    apply BitVec.eq_of_toNat_eq
    simp
  rw [colour, addr_add_ofNat, low]
  rfl

/-! ## The items a pass draws in a pixel -/

/-- Where no item of a layer is opaque, the last one covering the pixel has the pattern value 0 there. -/
theorem value_eq_zero_of_lastCovering {value : DrawItem → Int → Int → Nat} {layer : List DrawItem} {px py : Int} {it : DrawItem}
    (hnone : lastOpaque value layer px py = none) (hit : lastCovering layer px py = some it) : value it px py = 0 := by
  obtain ⟨hmem, hcovers⟩ := List.mem_filter.mp (List.mem_of_getLast? hit)
  have notOpaque := List.filter_eq_nil_iff.mp (List.getLast?_eq_none_iff.mp hnone) it hmem
  simpa [hcovers] using notOpaque

section
variable (s : State) (layer : List DrawItem) (fb : Framebuffer) {px py i j : Nat} (hx : px < 256) (hy : py < 240)
  (hi : i < s.params.zoom) (hj : j < s.params.zoom)
include hx hy hi hj

/-- A masked pass leaves the colour of its last opaque item (R421, R423). -/
theorem fbGet_drawLayer_masked :
    fbGet (drawLayer s true layer fb) (px * s.params.zoom + i) (py * s.params.zoom + j) =
      ((lastOpaque (itemValueAt s) layer px py).map fun it => colour s it.palBase (itemValueAt s it px py)).getD
        (fbGet fb (px * s.params.zoom + i) (py * s.params.zoom + j)) :=
  fbGet_drawLayer s true layer fb hx hy hi hj

/-- An unmasked pass leaves the colour of the last item that covers the pixel, opaque or not (R421, R423). -/
theorem fbGet_drawLayer_unmasked :
    fbGet (drawLayer s false layer fb) (px * s.params.zoom + i) (py * s.params.zoom + j) =
      ((lastCovering layer px py).map fun it => colour s it.palBase (itemValueAt s it px py)).getD
        (fbGet fb (px * s.params.zoom + i) (py * s.params.zoom + j)) := by
  simpa [drawn, lastCovering] using fbGet_drawLayer s false layer fb hx hy hi hj

/-- The four passes, the last of them first: each leaves what the ones before it drew where it draws nothing (R420, R422). -/
theorem fbGet_compositePasses :
    fbGet (compositePasses s) (px * s.params.zoom + i) (py * s.params.zoom + j) =
      priorityColour (itemValueAt s) (colour s) s.rend px py
        (fbGet s.rend.fb (px * s.params.zoom + i) (py * s.params.zoom + j)) := by
  rw [compositePasses, fbGet_drawLayer_masked s _ _ hx hy hi hj, fbGet_drawLayer_masked s _ _ hx hy hi hj,
    fbGet_drawLayer_masked s _ _ hx hy hi hj, fbGet_drawLayer_unmasked s _ _ hx hy hi hj, priorityColour]
  cases lastOpaque (itemValueAt s) s.rend.front px py with
  | some it => rfl
  | none =>
    cases hbg : lastOpaque (itemValueAt s) s.rend.bg px py with
    | some it => rfl
    | none =>
      cases lastOpaque (itemValueAt s) s.rend.behind px py with
      | some it => rfl
      | none =>
        cases hlast : lastCovering s.rend.bg px py with
        | some it => exact congrArg (colour s it.palBase) (value_eq_zero_of_lastCovering hbg hlast)
        | none => rfl

end

/-! ## Composite -/

/-- Settles O54: on the screen by what each pass leaves in a pixel, with values and colours as the rules give them, and off it
because no plot writes there. -/
theorem compositeGivesThePriorityColour : Obligations.CompositeGivesThePriorityColour := by
  intro s
  refine ⟨fun px py i j hx hy hi hj => ?onScreen, fun x y hoff => fbGet_compositePasses_off s hoff⟩
  case onScreen =>
    rw [← itemValueAt_eq, ← colour_eq]
    exact fbGet_compositePasses s hx hy hi hj

/-- With nothing queued the four passes draw nothing (R436). -/
theorem compositePasses_of_empty {s : State} (hbg : s.rend.bg = []) (hbehind : s.rend.behind = []) (hfront : s.rend.front = []) :
    compositePasses s = s.rend.fb := by
  rw [compositePasses, hbg, hbehind, hfront]
  rfl

/-- Settles O55: what Composite does by `composite_eq`. -/
theorem compositeClearsTheLayersAndPublishes : Obligations.CompositeClearsTheLayersAndPublishes :=
  fun s => ⟨⟨compositePasses s, composite_eq s⟩, compositePasses_of_empty⟩

end Sys2Proof.Machine
end

section
/-! PROOFS. Where a step begins: a fault record stops the machine, a pending NMI is taken first (60_exceptions.md R452, R458 to
R460); and the state reset leaves (70_reset_and_hazards.md R500). -/

namespace Sys2Proof.Machine

/-- A machine that holds a fault record takes no step (R452). -/
theorem step_of_fault {s : State} {f : Fault} (h : s.fault = some f) : step s = .fault f := by
  rw [step, h]

/-- A run whose first step answers a fault answers it too. -/
theorem run_of_step_fault {M : Host.Core} {s : M.State} {r : M.Fault} (k : Nat) (h : M.step s = .fault r) :
    M.run (k + 1) s = .fault r := by
  rw [Host.Core.run, h]

/-- Settles O7: the first step asked for answers the fault, and so does the run. -/
theorem faultedMachineTakesNoStep : Obligations.FaultedMachineTakesNoStep :=
  ⟨fun _ _ k h => run_of_step_fault (M := core) k (step_of_fault h), fun _ _ h => (step_cases h).1⟩

/-- The end of a step that has recorded no fault (R470). -/
theorem endStep_of_fault_none (c : Nat) {s : State} (h : s.fault = none) : endStep c s = Spec.stepped c s := by
  rw [endStep_eq, if_pos h]
  rfl

/-- Settles O8: the step is NMI entry, which records no fault, and the run of the PPU on its 7 cycles. -/
theorem pendingNmiIsTakenBeforeTheFetch : Obligations.PendingNmiIsTakenBeforeTheFetch := by
  intro s hf hn
  rw [step_of_nmiPending hf hn (nmiEntry_eq _), endStep_of_fault_none _ rfl]
  rfl

/-- Settles O12: every piece is a field of `resetWith`; pattern memory is the image where there is one, and the vector is a word
of two bytes. -/
theorem resetLoadsTheVectorAndClearsThePpu : Obligations.ResetLoadsTheVectorAndClearsThePpu := by
  intro p d s
  refine ⟨rfl, rfl, rfl, rfl, rfl, rfl, rfl, rfl, rfl, rfl, rfl, rfl, rfl, ⟨rfl, rfl, rfl, rfl, rfl, rfl, rfl, rfl⟩,
    ⟨rfl, rfl, rfl, rfl, rfl⟩, fun m hm => ?image, fun hnone => ?noImage, fun hlo hhi => ?vector⟩
  case image => exact congrArg (Option.getD · d.chr) hm
  case noImage => exact congrArg (Option.getD · d.chr) hnone
  case vector => exact congrArg₂ word hlo hhi

end Sys2Proof.Machine
end

section
/-! PROOFS. How a step ends (60_exceptions.md R470, R495): the frames it reports, the blocks it hands to the sink, and how many
frames its cycles can complete (70_reset_and_hazards.md R520 to R523). -/

namespace Sys2Proof.Machine

/-! ## The state a step ends from -/

/-- A fetch stops only by recording a fault. -/
theorem fetchByte_stopped_fault {s t : State} (h : fetchByte s = .stopped t) : t.fault ≠ none := by
  obtain hread | ⟨_, _, _, hset⟩ := Res.bind_eq_stopped.mp h
  · exact (busRead_stoppedFrom hread).1.fault_ne_none
  · cases hset

theorem fetchInstr_stopped_fault {s t : State} (h : fetchInstr s = .stopped t) : t.fault ≠ none := by
  obtain hop | ⟨op, s1, -, h⟩ := Res.bind_eq_stopped.mp h
  · exact fetchByte_stopped_fault hop
  split at h
  · rw [raise_eq_stopped] at h
    subst h
    nofun
  split at h
  · cases h
  · obtain hb | ⟨_, _, _, hok⟩ := Res.bind_eq_stopped.mp h
    · exact fetchByte_stopped_fault hb
    · cases hok
  · obtain hb | ⟨b1, s2, -, h⟩ := Res.bind_eq_stopped.mp h
    · exact fetchByte_stopped_fault hb
    obtain hb | ⟨_, _, _, hok⟩ := Res.bind_eq_stopped.mp h
    · exact fetchByte_stopped_fault hb
    · cases hok

/-- The cycles a CPU step takes: 7 for NMI entry, or the cost of an instruction (R522). -/
def StepCost (p : Params) (c : Nat) : Prop := c = 7 ∨ ∃ i t, t.params = p ∧ c = cpuCost i t

/-- A step ends from a state with the counters and the parameters it began with, on the cycles of its CPU step unless that has
recorded a fault. -/
theorem step_eq_endStep {s t : State} (h : step s = .next t) :
    ∃ c u, t = endStep c u ∧ u.scan = s.scan ∧ u.params = s.params ∧ (u.fault = none → StepCost s.params c) := by
  obtain ⟨hfetch, hfault⟩ := fetchInstr_within sameEngine_busClosed (fun _ _ _ => ⟨rfl, rfl, rfl, rfl, rfl, rfl⟩) s
  obtain ⟨-, ⟨-, u, hu, rfl⟩ | ⟨-, u, hu, rfl⟩ | ⟨-, i, u, w, hu, hw, rfl⟩⟩ := step_cases h
  case inl =>
    rw [nmiEntry_eq] at hu
    cases hu
    exact ⟨7, _, rfl, rfl, rfl, fun _ => .inl rfl⟩
  case inr.inl =>
    have same := hfault u hu
    exact ⟨0, u, rfl, same.scan, same.params, fun hn => absurd hn (fetchInstr_stopped_fault hu)⟩
  case inr.inr =>
    have fetched := hfetch i u hu
    have same := fetched.trans (exec_within sameEngine_busClosed hw)
    exact ⟨_, w, rfl, same.scan, same.params, fun _ => .inr ⟨i, u, fetched.params, rfl⟩⟩

/-! ## The frames of a step -/

/-- What a step reports and hands to the sink is that of one run, or a fault and nothing (R453, R470). -/
theorem endStep_report (c : Nat) (s : State) :
    (s.fault = none ∧ (endStep c s).report = .stepped c (run (c * s.params.ppuRatio) (s.setPublished [])).2 ∧
      Publishes (s.setPublished []) (endStep c s, (run (c * s.params.ppuRatio) (s.setPublished [])).2)) ∨
    (s.fault ≠ none ∧ (endStep c s).report = .faulted ∧ (endStep c s).published = []) := by
  rw [endStep_eq]
  split_ifs with hf
  · exact .inl ⟨hf, rfl, run_publishes (s.setPublished []) (c * s.params.ppuRatio)⟩
  · exact .inr ⟨hf, rfl, rfl⟩

/-- Settles O56: a run by `run_publishes`, and a step by the one run it ends with, whose list of blocks starts empty. -/
theorem everyFrameIsPublished : Obligations.EveryFrameIsPublished := by
  refine ⟨run_publishes, fun s t h => ?step⟩
  case step =>
    obtain ⟨c, u, rfl, -, hparams, -⟩ := step_eq_endStep h
    obtain ⟨-, hreport, blocks, hblocks, hcount, hsize, hlast, -⟩ | ⟨-, hreport⟩ := endStep_report c u
    · replace hblocks : (endStep c u).published = blocks := hblocks
      subst hblocks
      rw [← hparams]
      exact .inl ⟨c, _, hreport, hcount, hsize, hlast⟩
    · exact .inr hreport

/-! ## How many frames the cycles of a step complete -/

/-- From counters within their ranges, two frames end 264 lines or more, and the first of them still lacks a credit at least. -/
theorem credits_of_two_frames {s : State} {n : Nat} (hs : ScanInv s.scan) (h : 2 ≤ (run n s).2) : 89684 ≤ n := by
  have line : s.scan.line < 263 := hs.line
  have cycAcc : s.scan.cycAcc < 341 := hs.cycAcc
  have count := run_count s n line
  omega

/-- P_COST's reference value is from 2 to 7 cycles: the largest are BRK and the modifying indexed modes (R520). -/
theorem referenceCost_bounds (m : Mnemonic) (d : Mode) (crossed taken : Bool) :
    2 ≤ Spec.referenceCost m d crossed taken ∧ Spec.referenceCost m d crossed taken ≤ 7 := by
  cases d <;> simp only [Spec.referenceCost]
  case imp => split <;> decide
  case acc | imm | ind | indx => decide
  all_goals split_ifs <;> decide

/-- Under the reference costs a CPU step takes at least 1 cycle and at most 521, OAM DMA included (R520 to R522). -/
theorem StepCost.bounds {p : Params} {c : Nat} (h : StepCost p c) (href : p.cost = .reference) : 1 ≤ c ∧ c ≤ 521 := by
  obtain rfl | ⟨i, t, rfl, rfl⟩ := h
  · decide
  · have bounds := referenceCost_bounds i.mnemonic i.operand.mode (pageCrossed i.operand t) (branchTaken i t.cpu.p)
    rw [cpuCost, href, instrCost, referenceCost_opcode, Config.dmaCycles]
    split_ifs <;> omega

/-- Settles O58: the frames reported are those of one run on the step's credits, and 521 cycles at a ratio of 172 are too few for
two. -/
theorem aStepCompletesAtMostOneFrame : Obligations.AStepCompletesAtMostOneFrame := by
  intro s t c f hs h hreport
  obtain ⟨c', u, rfl, hscan, hparams, hcost⟩ := step_eq_endStep h
  obtain ⟨hf, hrun, -⟩ | ⟨-, hfaulted, -⟩ := endStep_report c' u
  case inr => rw [hfaulted] at hreport; cases hreport
  rw [hrun, Report.stepped.injEq, hparams] at hreport
  obtain ⟨rfl, rfl⟩ := hreport
  have scan : ScanInv (u.setPublished []).scan := by rw [State.setPublished_scan, hscan]; exact hs.scan
  have credits := credits_of_two_frames (n := c' * s.params.ppuRatio) scan
  refine ⟨credits, fun href => ?reference⟩
  case reference =>
    obtain ⟨least, most⟩ := (hcost hf).bounds href
    refine ⟨least, fun ratio => ?_⟩
    have atMost : c' * s.params.ppuRatio ≤ 521 * 172 := Nat.mul_le_mul most ratio
    by_contra two
    have := credits (by omega)
    omega

end Sys2Proof.Machine
end
